-- ==== Sys2Proof/Word.lean ====
section
/-! DEFINITION. Sys2Proof/Word.lean: the words of the controller and the Level of its line. -/

namespace Sys2Proof

/-- A Level, "binary signal value, {Low, High}" (00_scope R7). -/
inductive Level where
  | low
  | high
deriving DecidableEq, Repr, Inhabited

/-- The pin identifier, `W_PIN` = 8 bits, not interpreted by the block (00_scope R5, 40_gpio R117). -/
abbrev Pin := BitVec 8

/-- A host register number (10_state R40): an index, not a byte address. -/
abbrev RegNum := BitVec 4

/-- A whole host register (10_state R40). -/
abbrev HostWord := BitVec 32

/-- The port command word GCMD, 48 bits (30_encoding R91). -/
abbrev PortWord := BitVec 48

/-- A value in tenths, 13 bits two's complement, `W_VAL` (00_scope R5, 30_encoding R94). -/
abbrev Tenths := BitVec 13

/-! A count of samples (TLEN, RUN, WMIN, WMAX, an entry of PW) is `W_CNT` bits unsigned in the spec and never overflows
(00_scope R5, D23): a Nat in this model, bounded by the invariant `Safety.CounterInv` (log 2). -/

end Sys2Proof
end

