-- ==== Sys2Proof/Syntax.lean ====
section
/-! DEFINITION. Sys2Proof/Syntax.lean: the operation set (30_encoding R95), one constructor per row of the
operation table, and the words that name an operation (30_encoding R80, R90, R91, R88). -/

namespace Sys2Proof

/-- The twelve operations of 30_encoding R95 that have a code. -/
inductive Instr where
  /-- READ, the host command (45_retry R176). -/
  | read
  /-- CFG_OUT(pin, level), port command (40_gpio R111). -/
  | cfgOut (pin : Pin) (level : Level)
  /-- CFG_IN(pin), port command (40_gpio R112). -/
  | cfgIn (pin : Pin)
  /-- WRITE(pin, level), port command (40_gpio R113). -/
  | write (pin : Pin) (level : Level)
  /-- PIN_READ(pin), port command (40_gpio R114). -/
  | pinRead (pin : Pin)
  /-- SLEEP(duration), port command; the duration in microseconds (40_gpio R115). -/
  | sleep (pin : Pin) (duration : Nat)
  /-- ACQ_REQUEST, PHASE 1 (41_sampler R121). -/
  | acqRequest
  /-- ACQ_POLL, PHASE 2 (41_sampler R122). -/
  | acqPoll
  /-- EXTRACT, PHASE 3 (42_extractor R145). -/
  | extract
  /-- DECODE, PHASE 4 (43_decoder R155). -/
  | decode
  /-- VALIDATE, PHASE 5 (44_validator R164). -/
  | validate
  /-- BACKOFF, PHASE 6 (45_retry R173). -/
  | backoff
deriving DecidableEq, Repr

/-- A word of one of the three command formats, each of one fixed length (30_encoding R97). -/
inductive CodeWord where
  /-- Format HCMD: the low 8 bits of a host write to CMD (30_encoding R90). -/
  | hcmd (code : BitVec 8)
  /-- Format GCMD: the 48-bit port command word (30_encoding R91). -/
  | gcmd (word : PortWord)
  /-- Format PHASE: the 3-bit PHASE code (30_encoding R88). -/
  | phase (code : BitVec 3)
deriving DecidableEq, Repr

end Sys2Proof
end

