-- ==== Sys2Proof/WellFormed.lean ====
section
/-! DEFINITION. Sys2Proof/WellFormed.lean: which operations and which code words the formats of 30_encoding admit.
A pin, a Level and a code have exact types; the one operand with a range to check is a duration (30_encoding R93,
D5: durations above 4294.967295 s cannot be expressed). -/

namespace Sys2Proof

/-- An operation whose operands fit its format (30_encoding R91, R93). -/
def Instr.wf : Instr → Bool
  | .sleep _ duration => decide (duration < 2 ^ 32)
  | .read => true
  | .cfgOut _ _ => true
  | .cfgIn _ => true
  | .write _ _ => true
  | .pinRead _ => true
  | .acqRequest => true
  | .acqPoll => true
  | .extract => true
  | .decode => true
  | .validate => true
  | .backoff => true

/-- A port command word of format GCMD: an op code of 30_encoding R92, and the argument bits that R91 says are 0. -/
def portWordWf (w : PortWord) : Bool :=
  let op := w.extractLsb' 40 8
  let arg := w.extractLsb' 0 32
  (op == 0x01 && decide (arg.toNat ≤ 1)) || (op == 0x02 && arg == 0) || (op == 0x03 && decide (arg.toNat ≤ 1)) ||
    (op == 0x04 && arg == 0) || op == 0x05

/-- A code word that names an operation (30_encoding R95; the others are R96's). -/
def CodeWord.wf : CodeWord → Bool
  | .hcmd code => code == 0x01
  | .gcmd word => portWordWf word
  | .phase code => decide (1 ≤ code.toNat) && decide (code.toNat ≤ 6)

end Sys2Proof
end

