-- ==== Sys2Proof/Decode.lean ====
section
/-! DEFINITION. Sys2Proof/Decode.lean: the decoder, total on any code word and rejecting by name, the encoder, and
the table-word interface of the host. -/

namespace Sys2Proof

/-- Why a code word names no operation (30_encoding R96). -/
inductive DecodeError where
  /-- CMD code 0x00, "no operation": the write has no effect (30_encoding R90, R96). -/
  | hostNoOperation
  /-- CMD codes 0x02 to 0xFF, reserved (30_encoding R96). -/
  | hostCodeReserved
  /-- GCMD op 0x00 or 0x06 to 0xFF, never issued (30_encoding R92, R96). -/
  | portOpUndefined
  /-- A GCMD word whose argument holds a 1 where R91 says the bits are 0 (log 17). -/
  | portArgReserved
  /-- PHASE 0, IDLE: no operation, the block waits (30_encoding R88). -/
  | phaseIdle
  /-- PHASE 7, unused and unreachable (30_encoding R88, R96). -/
  | phaseUnused
deriving DecidableEq, Repr

/-- The bit that holds a Level: Low is 0, High is 1 (00_scope R7). -/
def Level.bit : Level → Bool
  | .low => false
  | .high => true

/-- The Level a bit holds (00_scope R7). -/
def Level.ofBit : Bool → Level
  | false => .low
  | true => .high

/-- The argument of CFG_OUT and WRITE: `zext_32` of the Level (30_encoding R91). -/
def levelArg (l : Level) : BitVec 32 := (BitVec.ofBool l.bit).setWidth 32

/-- The Level an argument of CFG_OUT or WRITE stands for; bits 31:1 are 0 (30_encoding R91). -/
def levelOfArg (arg : BitVec 32) : Option Level :=
  if arg = 0 then some .low else if arg = 1 then some .high else none

/-- The word with fields op in 47:40, pin in 39:32 and arg in 31:0 (30_encoding R91). -/
def portWord (op : BitVec 8) (pin : Pin) (arg : BitVec 32) : PortWord := op ++ pin ++ arg

/-- The word of CFG_OUT(pin, level) (40_gpio R111). -/
def cfgOutWord (pin : Pin) (level : Level) : PortWord := portWord 0x01 pin (levelArg level)

/-- The word of CFG_IN(pin) (40_gpio R112). -/
def cfgInWord (pin : Pin) : PortWord := portWord 0x02 pin 0

/-- The word of WRITE(pin, level) (40_gpio R113). -/
def writeWord (pin : Pin) (level : Level) : PortWord := portWord 0x03 pin (levelArg level)

/-- The word of PIN_READ(pin) (40_gpio R114). -/
def pinReadWord (pin : Pin) : PortWord := portWord 0x04 pin 0

/-- The word of SLEEP(duration); the pin field is carried and ignored by the PORT (40_gpio R115). -/
def sleepWord (pin : Pin) (duration : Nat) : PortWord := portWord 0x05 pin (BitVec.ofNat 32 duration)

/-- The op field of a port command word (30_encoding R91). -/
def opOfWord (w : PortWord) : BitVec 8 := w.extractLsb' 40 8

/-- The pin field of a port command word (30_encoding R91). -/
def pinOfWord (w : PortWord) : Pin := w.extractLsb' 32 8

/-- The arg field of a port command word (30_encoding R91). -/
def argOfWord (w : PortWord) : BitVec 32 := w.extractLsb' 0 32

/-- A command that carries a Level in its argument, or the reason it is none. -/
def withLevelArg (mk : Level → Instr) (arg : BitVec 32) : Except DecodeError Instr :=
  match levelOfArg arg with
  | some l => .ok (mk l)
  | none => .error .portArgReserved

/-- A command whose argument is 0, or the reason it is none. -/
def withZeroArg (i : Instr) (arg : BitVec 32) : Except DecodeError Instr :=
  if arg = 0 then .ok i else .error .portArgReserved

/-- Decoding a port command word by its op (30_encoding R92). -/
def decodePortWord (w : PortWord) : Except DecodeError Instr :=
  if opOfWord w = 0x01 then withLevelArg (.cfgOut (pinOfWord w)) (argOfWord w)
  else if opOfWord w = 0x02 then withZeroArg (.cfgIn (pinOfWord w)) (argOfWord w)
  else if opOfWord w = 0x03 then withLevelArg (.write (pinOfWord w)) (argOfWord w)
  else if opOfWord w = 0x04 then withZeroArg (.pinRead (pinOfWord w)) (argOfWord w)
  else if opOfWord w = 0x05 then .ok (.sleep (pinOfWord w) (argOfWord w).toNat)
  else .error .portOpUndefined

/-- Decoding a host command code (30_encoding R90). -/
def decodeHostCode (code : BitVec 8) : Except DecodeError Instr :=
  if code = 0x01 then .ok .read
  else if code = 0x00 then .error .hostNoOperation
  else .error .hostCodeReserved

/-- Decoding a PHASE code (30_encoding R88). -/
def decodePhaseCode (code : BitVec 3) : Except DecodeError Instr :=
  if code = 1 then .ok .acqRequest
  else if code = 2 then .ok .acqPoll
  else if code = 3 then .ok .extract
  else if code = 4 then .ok .decode
  else if code = 5 then .ok .validate
  else if code = 6 then .ok .backoff
  else if code = 0 then .error .phaseIdle
  else .error .phaseUnused

/-- The operation a code word names (30_encoding R95), or the reason it names none (R96). -/
def decode : CodeWord → Except DecodeError Instr
  | .hcmd code => decodeHostCode code
  | .gcmd word => decodePortWord word
  | .phase code => decodePhaseCode code

/-- The code word of an operation (30_encoding R95 and opcode_table.json). -/
def encode : Instr → CodeWord
  | .read => .hcmd 0x01
  | .cfgOut pin level => .gcmd (cfgOutWord pin level)
  | .cfgIn pin => .gcmd (cfgInWord pin)
  | .write pin level => .gcmd (writeWord pin level)
  | .pinRead pin => .gcmd (pinReadWord pin)
  | .sleep pin duration => .gcmd (sleepWord pin duration)
  | .acqRequest => .phase 1
  | .acqPoll => .phase 2
  | .extract => .phase 3
  | .decode => .phase 4
  | .validate => .phase 5
  | .backoff => .phase 6

/-- The operation `decode` finds, without the reason where it finds none. -/
def decode? (c : CodeWord) : Option Instr :=
  match decode c with
  | .ok i => some i
  | .error _ => none

/-- The code word that a word of opcode_table.json stands for, by its number of bits. Formats HCMD (8 bits) and PHASE
(3 bits) both fit in one byte: a byte holding 0x01 is read as HCMD's READ, a byte holding another 3-bit value as a PHASE
code, any other byte as HCMD (log 15). The machine's own fetch never meets the question: it knows the format. -/
def tableCodeWord (nbits w : Nat) : Option CodeWord :=
  if nbits = 48 then some (.gcmd (BitVec.ofNat 48 w))
  else if nbits = 8 then
    if w = 1 then some (.hcmd 0x01)
    else if w < 8 then some (.phase (BitVec.ofNat 3 w))
    else some (.hcmd (BitVec.ofNat 8 w))
  else if nbits < 8 then
    if w < 8 then some (.phase (BitVec.ofNat 3 w)) else none
  else none

/-- The operation the decoder reads from a word of opcode_table.json (log 15). -/
def decodeTableWord (nbits w : Nat) : Option Instr :=
  match tableCodeWord nbits w with
  | some c => decode? c
  | none => none

end Sys2Proof
end

