-- ==== Sys2Proof/Config.lean ====
section
/-! DEFINITION. Sys2Proof/Config.lean: what is fixed for one controller (00_scope R4, R5) and the values the
spec leaves open. An `opaque` constant has no body: no proof can tell its value. -/

namespace Sys2Proof.Config

/-- `UNCHANGED_THRESHOLD` (00_scope R4): consecutive unchanged polls that end a capture. -/
def unchangedThreshold : Nat := 200

/-- `N_BITS` (00_scope R4): pulse widths in a valid frame. -/
def nBits : Nat := 40

/-- `T_SETTLE` = 500 ms in microseconds (00_scope R4, 30_encoding R93). -/
def tSettle : Nat := 500000

/-- `T_START_HIGH` = 50 ms in microseconds (00_scope R4, 30_encoding R93). -/
def tStartHigh : Nat := 50000

/-- `T_START_LOW` = 20 ms in microseconds (00_scope R4, 30_encoding R93). -/
def tStartLow : Nat := 20000

/-- How far `TRACE_DEPTH` lies above its least value; OPEN in the spec (00_scope R5, D9; log 1). -/
opaque traceDepthExtra : Nat

/-- `TRACE_DEPTH` (00_scope R5, D9): any number from 201 = `UNCHANGED_THRESHOLD` + 1 up, by its form (log 1). -/
def traceDepth : Nat := traceDepthExtra + 201

/-- `W_CNT` = ceil(log2(TRACE_DEPTH + 1)) (00_scope R5): the spec's width of TLEN, RUN, WMIN, WMAX and PW. -/
def wCnt : Nat := Nat.log2 traceDepth + 1

/-- The Level the LINE answers at its n-th poll beyond the Levels a state lists: the oracle of 00_scope R13,
a FREE VALUE that nothing constrains (log 3). -/
opaque lineLevel : Nat → Level

end Sys2Proof.Config
end

