-- ==== Sys2Proof/Machine/State.lean ====
section
/-! DEFINITION. Sys2Proof/Machine/State.lean: the whole state of the block (10_state R20), the model's own fields, the
faults and refusals, and the state after reset (10_state R37). -/

namespace Sys2Proof.Machine

/-- PHASE, the block's program counter (10_state R21); code 7 is unused and has no constructor (30_encoding R96). -/
inductive Phase where
  | idle
  | acqRequest
  | acqPoll
  | extract
  | decode
  | validate
  | backoff
deriving DecidableEq, Repr

/-- RSTATE, the state of the RetryController (10_state R22). -/
inductive RState where
  | idle
  | attempting
  | succeeded
  | failed
deriving DecidableEq, Repr

/-- ATT, the tagged result of an attempt (10_state R24); all but `ok` are the failure classes of 60_exceptions R190. -/
inductive Attempt where
  | ok
  | checksumMismatch
  | invalidFrameLength
  | acquisitionTimeout
deriving DecidableEq, Repr

/-- XS, the scan state of the PulseExtractor (10_state R28). -/
inductive ScanState where
  | seekLow
  | seekHigh
  | seekFall
  | data
deriving DecidableEq, Repr

/-- The Reading's status (10_state R47): code 1 is legal and never written by this block, code 3 has no constructor
(30_encoding R85, R96). -/
inductive Status where
  | ok
  | checksumError
  | timeoutError
deriving DecidableEq, Repr

/-- What the outside of the block does at one step (10_state R51, R52; log 4). -/
inductive EnvEvent where
  /-- The HOST reads a register (20_memory R65). -/
  | hostRead (reg : RegNum)
  /-- The HOST writes a register (20_memory R65). -/
  | hostWrite (reg : RegNum) (data : HostWord)
  /-- `rst` is 1 at a clock edge (70_reset R220). -/
  | reset
  /-- Nothing: the step belongs to CTRL and the PORT. -/
  | pass
deriving DecidableEq, Repr

/-- How one command word left `outstanding` (00_scope R12; log 6). -/
inductive PortEvent where
  /-- The PORT reported the command complete (40_gpio R110). -/
  | completed (word : PortWord)
  /-- A reset dropped the command while it was outstanding (70_reset R220, R224; log 13). -/
  | dropped (word : PortWord)
deriving DecidableEq, Repr

/-- The trace buffer's contents: one cell per written entry, the entry's Level in the low bit of the cell's byte,
addresses strictly rising (20_memory R60; log 9). -/
abbrev Memory := List Host.Cell

/-- The registers EXTRACT's scan carries from sample to sample (10_state R28 to R31). -/
structure Scan where
  xs : ScanState
  run : Nat
  pcount : BitVec 6
  pw : Vector Nat 40
deriving DecidableEq, Repr

/-- The state of the block: the registers of 10_state R20 under their names, then the model's own fields. -/
structure State where
  /-- PHASE (10_state R21). -/
  phase : Phase
  /-- STEP, 0 to 6: which command of ACQ_REQUEST is next (10_state R21). -/
  stepNo : Fin 7
  /-- RSTATE (10_state R22). -/
  rstate : RState
  /-- TRIES: failed attempts of this READ (10_state R23). -/
  tries : BitVec 8
  /-- ATT (10_state R24). -/
  att : Attempt
  /-- LASTV: a previous sample exists (10_state R25). -/
  lastv : Bool
  /-- LAST: its Level (10_state R25). -/
  last : Level
  /-- UNCHANGED: consecutive unchanged polls (10_state R26). -/
  unchanged : BitVec 8
  /-- TLEN: samples in the trace (10_state R27). -/
  tlen : Nat
  /-- TRACE (10_state R27). -/
  trace : Memory
  /-- XS (10_state R28). -/
  xs : ScanState
  /-- RUN: length of the High run being measured (10_state R29). -/
  run : Nat
  /-- PCOUNT: widths emitted, saturating at 41 (10_state R30). -/
  pcount : BitVec 6
  /-- PW[0..39], the pulse-width file (10_state R31). -/
  pw : Vector Nat 40
  /-- WMIN (10_state R32). -/
  wmin : Nat
  /-- WMAX (10_state R32). -/
  wmax : Nat
  /-- ACC; its five bytes are the Frame (10_state R33). -/
  acc : BitVec 40
  /-- SUM (10_state R34). -/
  sum : BitVec 8
  /-- PIN[7:0] (10_state R42). -/
  pin : Pin
  /-- MAX_TRIES[7:0] (10_state R43). -/
  maxTries : BitVec 8
  /-- MIN_INTERVAL[31:0], microseconds (10_state R44). -/
  minInterval : BitVec 32
  /-- RAISE = POLICY[0] (10_state R45). -/
  raise : Bool
  /-- STATUS (10_state R47). -/
  status : Status
  /-- TEMPERATURE in tenths (10_state R48). -/
  temperature : Tenths
  /-- HUMIDITY in tenths (10_state R49). -/
  humidity : Tenths
  /-- The command CTRL has issued and the PORT has not completed (10_state R38). -/
  outstanding : Option PortWord
  /-- The model's own: ACQ_POLL is past its initialisation (41_sampler R122; log 7). -/
  polling : Bool
  /-- The model's own: what the HOST and `rst` will do, one event a step (log 4). -/
  env : List EnvEvent
  /-- The model's own: the value the last host read returned, h_rdata of 10_state R52 (log 19). -/
  rdata : HostWord
  /-- The model's own: the Levels the LINE will answer next (00_scope R13; log 3). -/
  line : List Level
  /-- The model's own: the counter of the free Levels after `line` is used up (log 3). -/
  lineIdx : Nat
  /-- The model's own: the commands completed or dropped, newest first (00_scope R12; log 6). -/
  portLog : List PortEvent
deriving DecidableEq, Repr

/-- Why the model stops with a fault. The block itself has none (93_implementation_defined, after U19); these are accesses
the spec says never happen, and no state that meets `Safety.Sound` reaches one (log 10). -/
inductive Fault where
  /-- EXTRACT reads TRACE at an index at or above TLEN (20_memory R61). Safe. -/
  | traceReadBeyondLength
  /-- EXTRACT reads a TRACE entry below TLEN that nothing has written (20_memory R61, 10_state R36). Safe. -/
  | traceEntryUnwritten
  /-- A sample would be stored other than at TLEN below TRACE_DEPTH (20_memory R62). Safe. -/
  | traceWriteOutside
deriving DecidableEq, Repr

/-- Why the model gives no next state. -/
inductive Refusal where
  /-- An instruction with no meaning yet; raised by `exec`'s arms only. Safe. -/
  | notModelled (mnemonic : String)
  /-- A host write of CMD, PIN, MAX_TRIES, MIN_INTERVAL or POLICY while BUSY = 1, READ while busy among them: "undefined
  behavior", to which the spec gives no meaning (10_state R51, 45_retry R181, U2; log 11). Raised by `execRead` and
  `hostWriteRegister`. Safe. -/
  | hostWriteWhileBusy (reg : RegNum)
  /-- A host write of CMD with a reserved code (0x02 to 0xFF) while BUSY = 0, which a model refuses (30_encoding R96, U3; log
  12). Raised by `hostWriteRegister`. Safe. -/
  | hostCommandReserved (code : BitVec 8)
  /-- The outstanding port word is no command (30_encoding R96: never issued by CTRL; log 17). Raised by `ctrlFetch`. Safe. -/
  | portWordUndefined (word : PortWord)
deriving DecidableEq, Repr

/-- The sentinel -1 in tenths: -10, 13-bit pattern 0x1FF6 (30_encoding R94). -/
def sentinelTenths : Tenths := 0x1FF6

/-- The machine right after reset (10_state R37, 70_reset R220). Fields the spec leaves unspecified there (R222) hold the
values of log 8; the model's own fields hold those of logs 3, 4, 6, 7 and 19. -/
def State.reset : State where
  phase := .idle
  stepNo := 0
  rstate := .idle
  tries := 0
  att := .ok
  lastv := false
  last := .low
  unchanged := 0
  tlen := 0
  trace := []
  xs := .seekLow
  run := 0
  pcount := 0
  pw := Vector.replicate 40 0
  wmin := 0
  wmax := 0
  acc := 0
  sum := 0
  pin := 0
  maxTries := 10
  minInterval := 2000000
  raise := false
  status := .timeoutError
  temperature := sentinelTenths
  humidity := sentinelTenths
  outstanding := none
  polling := false
  env := []
  rdata := 0
  line := []
  lineIdx := 0
  portLog := []

end Sys2Proof.Machine
end

