-- ==== Sys2Proof/Machine/Operands.lean ====
section
/-! DEFINITION. Sys2Proof/Machine/Operands.lean: codes, fields and the assembly of every operand (30_encoding). -/

namespace Sys2Proof.Machine

/-! ## Codes -/

/-- PHASE codes (30_encoding R88). -/
def Phase.code : Phase → BitVec 3
  | .idle => 0
  | .acqRequest => 1
  | .acqPoll => 2
  | .extract => 3
  | .decode => 4
  | .validate => 5
  | .backoff => 6

/-- The phase a code stands for; 7 is unused (30_encoding R88, R96). -/
def Phase.ofCode (c : BitVec 3) : Option Phase :=
  if c = 0 then some .idle
  else if c = 1 then some .acqRequest
  else if c = 2 then some .acqPoll
  else if c = 3 then some .extract
  else if c = 4 then some .decode
  else if c = 5 then some .validate
  else if c = 6 then some .backoff
  else none

/-- RSTATE codes (30_encoding R87). -/
def RState.code : RState → BitVec 2
  | .idle => 0
  | .attempting => 1
  | .succeeded => 2
  | .failed => 3

/-- ATT codes (30_encoding R86); not host-readable (10_state R24). -/
def Attempt.code : Attempt → BitVec 2
  | .ok => 0
  | .checksumMismatch => 1
  | .invalidFrameLength => 2
  | .acquisitionTimeout => 3

/-- XS codes (30_encoding R89). -/
def ScanState.code : ScanState → BitVec 2
  | .seekLow => 0
  | .seekHigh => 1
  | .seekFall => 2
  | .data => 3

/-- Status codes (30_encoding R85). -/
def Status.code : Status → BitVec 2
  | .ok => 0
  | .checksumError => 1
  | .timeoutError => 2

/-! ## Levels in memory -/

/-- The byte of a TRACE cell: the Level in bit 0 (00_scope R7; log 9). -/
def levelByte (l : Level) : BitVec 8 := (BitVec.ofBool l.bit).setWidth 8

/-- The Level a TRACE cell's byte holds (00_scope R7; log 9). -/
def levelOfByte (b : BitVec 8) : Level := Level.ofBit (b.getLsbD 0)

/-! ## The handshake (41_sampler R121) -/

/-- The command of ACQ_REQUEST at each STEP (41_sampler R121, 30_encoding R88). -/
def handshakeWord (pin : Pin) (stepNo : Fin 7) : PortWord :=
  match stepNo with
  | 0 => cfgOutWord pin .high
  | 1 => sleepWord pin Config.tSettle
  | 2 => writeWord pin .high
  | 3 => sleepWord pin Config.tStartHigh
  | 4 => writeWord pin .low
  | 5 => sleepWord pin Config.tStartLow
  | 6 => cfgInWord pin

/-! ## Widths and bits (43_decoder) -/

/-- `min` of the widths by DECODE's scan (43_decoder R151, R155). -/
def leastWidth : List Nat → Nat
  | [] => 0
  | w :: ws => ws.foldl (fun m x => if x < m then x else m) w

/-- `max` of the widths by DECODE's scan (43_decoder R151, R155). -/
def greatestWidth : List Nat → Nat
  | [] => 0
  | w :: ws => ws.foldl (fun m x => if m < x then x else m) w

/-- The bit of one width: `2*w > WMIN + WMAX` (43_decoder R152). -/
def widthBit (wmin wmax w : Nat) : Bool := decide (wmin + wmax < 2 * w)

/-- ACC <- {ACC[38:0], b} for each width in order, from 0 (43_decoder R153). -/
def accumulate (wmin wmax : Nat) (ws : List Nat) : BitVec 40 :=
  ws.foldl (fun acc w => acc.shiftConcat (widthBit wmin wmax w)) 0

/-! ## The frame (44_validator) -/

/-- `frame[k]` = ACC[39-8k : 32-8k] (10_state R33, 43_decoder R154). -/
def frameByte (acc : BitVec 40) (k : Nat) : BitVec 8 := acc.extractLsb' (32 - 8 * k) 8

/-- `(frame[0] + frame[1] + frame[2] + frame[3]) mod 256` (44_validator R161). -/
def frameSum (acc : BitVec 40) : BitVec 8 :=
  BitVec.ofNat 8
    ((frameByte acc 0).toNat + (frameByte acc 1).toNat + (frameByte acc 2).toNat + (frameByte acc 3).toNat)

/-- Humidity in tenths as an exact number (44_validator R162). -/
def humidityTenths (acc : BitVec 40) : Int :=
  10 * (frameByte acc 0).toNat + (frameByte acc 1).toNat

/-- The temperature's magnitude in tenths (44_validator R163): `frame[3][6:0]` is used whole. -/
def temperatureMagnitude (acc : BitVec 40) : Nat :=
  10 * (frameByte acc 2).toNat + ((frameByte acc 3).extractLsb' 0 7).toNat

/-- Temperature in tenths as an exact number: negated if `frame[3][7]` = 1 (44_validator R163, 30_encoding R84). -/
def temperatureTenths (acc : BitVec 40) : Int :=
  if (frameByte acc 3).getLsbD 7 then -(temperatureMagnitude acc : Int) else (temperatureMagnitude acc : Int)

/-- A value in tenths as a 13-bit two's-complement register (30_encoding R94). -/
def toTenths (v : Int) : Tenths := BitVec.ofInt 13 v

/-! ## Host register fields (10_state R40 to R49) -/

/-- A field in the low bits, the bits above reading 0 (10_state R40). -/
def lowField {n : Nat} (v : BitVec n) : HostWord := v.setWidth 32

/-- `sext_32` of a value in tenths (10_state R48, R49). -/
def tenthsField (v : Tenths) : HostWord := v.signExtend 32

/-- The command code of a write to CMD: `wdata[7:0]`; the rest is ignored (10_state R41). -/
def commandCode (data : HostWord) : BitVec 8 := data.extractLsb' 0 8

end Sys2Proof.Machine
end

