-- ==== Sys2Proof/Machine/Flags.lean ====
section
/-! DEFINITION. Sys2Proof/Machine/Flags.lean: the four flags, functions of RSTATE, RAISE and STATUS (10_state R35), the
status lines (60_exceptions R200) and the STATE register (10_state R46). No operation sets a flag as a side effect. -/

namespace Sys2Proof.Machine

/-- BUSY: RSTATE = Attempting (10_state R35). -/
def State.busy (s : State) : Bool := s.rstate == .attempting

/-- DONE: Succeeded, or Failed with RAISE = 0 (10_state R35). -/
def State.done (s : State) : Bool := s.rstate == .succeeded || (s.rstate == .failed && !s.raise)

/-- VALID: DONE and STATUS = Ok, the source's `isValid()` (10_state R35, 45_retry R180). -/
def State.valid (s : State) : Bool := s.done && s.status == .ok

/-- RAISED: Failed with RAISE = 1 (10_state R35, 45_retry R179). -/
def State.raised (s : State) : Bool := s.rstate == .failed && s.raise

/-- The four level outputs (60_exceptions R200, 10_state R52). -/
structure StatusLines where
  busy : Bool
  done : Bool
  valid : Bool
  timeoutRaise : Bool
deriving DecidableEq, Repr

/-- Each line equals its flag at all times (60_exceptions R200). -/
def State.statusLines (s : State) : StatusLines :=
  { busy := s.busy, done := s.done, valid := s.valid, timeoutRaise := s.raised }

/-- The STATE register: [1:0] RSTATE, [2] BUSY, [3] DONE, [4] VALID, [5] RAISED, [7:6] 0, [15:8] TRIES, [31:16] 0
(10_state R46). -/
def State.stateRegister (s : State) : HostWord :=
  (0 : BitVec 16) ++ s.tries ++ (0 : BitVec 2) ++ BitVec.ofBool s.raised ++ BitVec.ofBool s.valid ++
    BitVec.ofBool s.done ++ BitVec.ofBool s.busy ++ s.rstate.code

end Sys2Proof.Machine
end

