-- ==== Sys2Proof/Machine/Ops.lean ====
section
/-! DEFINITION. Sys2Proof/Machine/Ops.lean: the named operations over the trace buffer and the registers. The failure of
an attempt (the block's exception, 60_exceptions R196) is `State.failAttempt`; its return is `State.retry` (R198). -/

namespace Sys2Proof.Machine

/-- One step's answer. -/
abbrev Result := Host.Outcome State Fault Refusal

/-! ## The trace buffer -/

/-- The byte of an entry; an entry nothing has written has no value (20_memory R61, 10_state R36; log 9). -/
def Memory.readByte : Memory → Nat → Option (BitVec 8)
  | [], _ => none
  | (b, v) :: m, a => if a = b then some v else Memory.readByte m a

/-- Storing one byte, the addresses kept strictly rising. -/
def Memory.writeByte : Memory → Nat → BitVec 8 → Memory
  | [], a, v => [(a, v)]
  | (b, w) :: m, a, v =>
    if a < b then (a, v) :: (b, w) :: m
    else if a = b then (a, v) :: m
    else (b, w) :: Memory.writeByte m a v

/-- Addresses strictly rise and lie above `lo`, and each byte holds one Level (log 9). -/
def Memory.wfAbove : Option Nat → Memory → Bool
  | _, [] => true
  | lo, (a, v) :: m =>
    (match lo with
      | none => true
      | some l => decide (l < a)) && decide (v.toNat < 2) && Memory.wfAbove (some a) m

/-- The canonical form of a trace buffer's contents (log 9). -/
def Memory.wf (m : Memory) : Bool := Memory.wfAbove none m

/-- The Level of an entry, if the entry has been written. -/
def Memory.readLevel (m : Memory) (i : Nat) : Option Level := (Memory.readByte m i).map levelOfByte

/-- `MemRead(i, 1)`: requires i < TLEN; no side effect (20_memory R61; log 10). -/
def State.memRead (s : State) (i : Nat) : Except Fault Level :=
  if i < s.tlen then
    match s.trace.readLevel i with
    | some l => .ok l
    | none => .error .traceEntryUnwritten
  else .error .traceReadBeyondLength

/-- The Levels of n entries from index i on, each read once, in order (20_memory R61). -/
def State.readFrom (s : State) (i : Nat) : Nat → Except Fault (List Level)
  | 0 => .ok []
  | n + 1 =>
    match s.memRead i with
    | .error f => .error f
    | .ok l =>
      match State.readFrom s (i + 1) n with
      | .error f => .error f
      | .ok ls => .ok (l :: ls)

/-- The trace: TRACE[0] to TRACE[TLEN-1] (10_state R27, 42_extractor R145). -/
def State.readTrace (s : State) : Except Fault (List Level) := s.readFrom 0 s.tlen

/-- The store of `MemWrite(TLEN, 1, c)` and `TLEN <- TLEN + 1`, one step (20_memory R62, 41_sampler R124). -/
def State.appendSample (c : Level) (s : State) : State :=
  { s with trace := s.trace.writeByte s.tlen (levelByte c), tlen := s.tlen + 1 }

/-! ## The port transaction (40_gpio R110) -/

/-- CTRL issues a command: `outstanding <- {op, pin, arg}` (40_gpio R110). -/
def State.issue (w : PortWord) (s : State) : State := { s with outstanding := some w }

/-- The PORT has completed a command: `outstanding <- none` (40_gpio R110), and the word is noted as completed
(00_scope R12; that it is noted here and not at its issue is log 6). -/
def State.completePort (w : PortWord) (s : State) : State :=
  { s with outstanding := none, portLog := .completed w :: s.portLog }

/-- The Level the LINE answers next: the next listed one, or else a free value (00_scope R13; log 3). -/
def State.lineLevel (s : State) : Level :=
  match s.line with
  | l :: _ => l
  | [] => Config.lineLevel s.lineIdx

/-- The LINE moves on to its next Level (00_scope R13; log 3). -/
def State.advanceLine (s : State) : State :=
  match s.line with
  | _ :: rest => { s with line := rest }
  | [] => { s with lineIdx := s.lineIdx + 1 }

/-! ## The change detector (41_sampler R123 to R125) -/

/-- TLEN <- 0, UNCHANGED <- 0, LASTV <- 0 before the first poll of a capture (41_sampler R123). -/
def State.startCapture (s : State) : State :=
  { s with tlen := 0, unchanged := 0, lastv := false, polling := true }

/-- A change: UNCHANGED <- 0, LAST <- c, LASTV <- 1 (41_sampler R124). -/
def State.markChange (c : Level) (s : State) : State := { s with unchanged := 0, last := c, lastv := true }

/-- An unchanged poll: UNCHANGED <- UNCHANGED + 1 (41_sampler R124). -/
def State.countUnchanged (s : State) : State := { s with unchanged := s.unchanged + 1 }

/-- The capture ends: PHASE <- EXTRACT (41_sampler R122, R125). -/
def State.endCapture (s : State) : State := { s with phase := .extract, polling := false }

/-- The poll is a change: the first of the capture, or c differs from LAST (41_sampler R124). -/
def State.isChange (c : Level) (s : State) : Bool := !s.lastv || s.last != c

/-- The change detector on one sample, with the stop condition (41_sampler R124, R125). -/
def State.detectChange (c : Level) (s : State) : State :=
  if s.isChange c then s.markChange c
  else if s.countUnchanged.unchanged.toNat = Config.unchangedThreshold then s.countUnchanged.endCapture
  else s.countUnchanged

/-- The bookkeeping of one poll with a buffer of `depth` entries (41_sampler R124; the store needs TLEN < depth, 20_memory
R62, which the head of the loop has tested; log 10). -/
def State.takeSample (depth : Nat) (c : Level) (s : State) : Result :=
  if s.tlen < depth then .next ((s.appendSample c).detectChange c) else .fault .traceWriteOutside

/-! ## The RetryController (45_retry) -/

/-- An attempt fails: ATT <- the class, TRIES <- TRIES + 1, PHASE <- BACKOFF, in one step (45_retry R172, 60_exceptions
R196). The block's "trap entry": nothing is saved. -/
def State.failAttempt (cls : Attempt) (s : State) : State :=
  { s with att := cls, tries := s.tries + 1, phase := .backoff, polling := false }

/-- An attempt succeeds (45_retry R174). -/
def State.succeed (temp hum : Tenths) (s : State) : State :=
  { s with
    att := .ok, status := .ok, temperature := temp, humidity := hum, rstate := .succeeded, phase := .idle }

/-- Exhaustion at the end of BACKOFF, the terminal timeout (45_retry R173, R175; 60_exceptions R197). -/
def State.exhaust (s : State) : State :=
  { s with rstate := .failed, status := .timeoutError, phase := .idle }

/-- The retry, the "return" after a failed attempt (45_retry R173; 60_exceptions R198). -/
def State.retry (s : State) : State := { s with phase := .acqRequest, stepNo := 0 }

/-- The end of BACKOFF: exhausted if TRIES = MAX_TRIES, else retry (45_retry R173). -/
def State.endBackoff (s : State) : State := if s.tries = s.maxTries then s.exhaust else s.retry

/-- READ's first writes: TRIES <- 0 and the sentinel Reading (45_retry R176). -/
def State.clearReading (s : State) : State :=
  { s with tries := 0, status := .timeoutError, temperature := sentinelTenths, humidity := sentinelTenths }

/-- READ with attempts to make: RSTATE <- Attempting, PHASE <- ACQ_REQUEST, STEP <- 0 (45_retry R176). -/
def State.startAttempting (s : State) : State :=
  { s with rstate := .attempting, phase := .acqRequest, stepNo := 0 }

/-- READ with MAX_TRIES = 0: RSTATE <- Failed, PHASE stays IDLE (45_retry R176, R183). -/
def State.failAtOnce (s : State) : State := { s with rstate := .failed }

/-! ## What CTRL does when a command completes -/

/-- STEP <- STEP + 1 (41_sampler R121). -/
def State.nextStep (s : State) : State := { s with stepNo := s.stepNo + 1 }

/-- STEP <- 0, PHASE <- ACQ_POLL (41_sampler R121). -/
def State.enterPoll (s : State) : State := { s with stepNo := 0, phase := .acqPoll }

/-- ACQ_REQUEST after a completed command (41_sampler R121). -/
def State.advanceHandshake (s : State) : State := if s.stepNo = 6 then s.enterPoll else s.nextStep

/-- CTRL's bookkeeping after a completed command that answers no Level: ACQ_REQUEST advances STEP, BACKOFF makes the
exhaustion test. The other phases have no such command outstanding (log 18). -/
def State.afterCommand (s : State) : State :=
  match s.phase with
  | .acqRequest => s.advanceHandshake
  | .backoff => s.endBackoff
  | .idle => s
  | .acqPoll => s
  | .extract => s
  | .decode => s
  | .validate => s

/-! ## The PulseExtractor's scan (42_extractor) -/

/-- `emit v`: PW[PCOUNT] <- v if PCOUNT < 40, PCOUNT <- PCOUNT + 1 if PCOUNT < 41 (42_extractor R143). -/
def Scan.emit (v : Nat) (r : Scan) : Scan :=
  { r with
    pw := if r.pcount.toNat < 40 then r.pw.setIfInBounds r.pcount.toNat v else r.pw
    pcount := if r.pcount.toNat < 41 then r.pcount + 1 else r.pcount }

/-- One sample of the scan (42_extractor R142, R143, R145). -/
def Scan.sample (r : Scan) (c : Level) : Scan :=
  match r.xs, c with
  | .seekLow, .low => { r with xs := .seekHigh }
  | .seekLow, .high => r
  | .seekHigh, .high => { r with xs := .seekFall }
  | .seekHigh, .low => r
  | .seekFall, .low => { r with xs := .data }
  | .seekFall, .high => r
  | .data, .high => { r with run := r.run + 1 }
  | .data, .low => if 0 < r.run then { r.emit r.run with run := 0 } else r

/-- XS <- SEEK_LOW, RUN <- 0, PCOUNT <- 0; PW keeps its entries (42_extractor R145). -/
def Scan.start (pw : Vector Nat 40) : Scan := { xs := .seekLow, run := 0, pcount := 0, pw := pw }

/-- The scan of a whole trace (42_extractor R145). -/
def Scan.trace (pw : Vector Nat 40) (levels : List Level) : Scan := levels.foldl Scan.sample (Scan.start pw)

/-- The registers EXTRACT writes (42_extractor R145). -/
def State.storeScan (r : Scan) (s : State) : State :=
  { s with xs := r.xs, run := r.run, pcount := r.pcount, pw := r.pw }

/-- PHASE <- DECODE (42_extractor R145). -/
def State.enterDecode (s : State) : State := { s with phase := .decode }

/-! ## The BitDecoder and the FrameValidator -/

/-- What DECODE writes: WMIN, WMAX, ACC and PHASE <- VALIDATE (43_decoder R155). -/
def State.storeDecoded (s : State) : State :=
  let ws := s.pw.toList
  { s with
    wmin := leastWidth ws, wmax := greatestWidth ws, acc := accumulate (leastWidth ws) (greatestWidth ws) ws,
    phase := .validate }

/-- SUM <- the checksum of the frame (44_validator R164). -/
def State.storeSum (s : State) : State := { s with sum := frameSum s.acc }

end Sys2Proof.Machine
end

