-- ==== Sys2Proof/Machine/BitDecoder.lean ====
section
/-! DEFINITION. Sys2Proof/Machine/BitDecoder.lean: the BitDecoder (43_decoder). -/

namespace Sys2Proof.Machine

/-- DECODE, taken whole (43_decoder R155). R150 defines it for PCOUNT = 40 only, and the sequencer performs it with no other
number; performed with another (a DECODE placed from outside, `State.withFetchWord`), it takes the forty entries that PW
holds, whatever wrote them: DESIGN CHOICE, unsafe, log 23. -/
def execDecode (s : State) : Result := .next s.storeDecoded

end Sys2Proof.Machine
end

