-- ==== Sys2Proof/Machine/Extractor.lean ====
section
/-! DEFINITION. Sys2Proof/Machine/Extractor.lean: the PulseExtractor (42_extractor). -/

namespace Sys2Proof.Machine

/-- The test of the length after the scan, the RetryController's (42_extractor R145, 45_retry R170). -/
def State.judgeLength (s : State) : State :=
  if s.pcount.toNat = Config.nBits then s.enterDecode else s.failAttempt .invalidFrameLength

/-- EXTRACT, taken whole (42_extractor R145). -/
def execExtract (s : State) : Result :=
  match s.readTrace with
  | .ok levels => .next (s.storeScan (Scan.trace s.pw levels)).judgeLength
  | .error f => .fault f

end Sys2Proof.Machine
end

