-- ==== Sys2Proof/Machine/Port.lean ====
section
/-! DEFINITION. Sys2Proof/Machine/Port.lean: the five GpioPort commands (40_gpio). A command's meaning is the PORT's
completion of it and CTRL's bookkeeping after that (R110; log 5), for every pin number alike (R117; log 24); and the pin as the
commands have left it. -/

namespace Sys2Proof.Machine

/-- CFG_OUT(pin, level) completes (40_gpio R111). -/
def execCfgOut (pin : Pin) (level : Level) (s : State) : Result :=
  .next (s.completePort (cfgOutWord pin level)).afterCommand

/-- CFG_IN(pin) completes (40_gpio R112). -/
def execCfgIn (pin : Pin) (s : State) : Result :=
  .next (s.completePort (cfgInWord pin)).afterCommand

/-- WRITE(pin, level) completes (40_gpio R113). -/
def execWrite (pin : Pin) (level : Level) (s : State) : Result :=
  .next (s.completePort (writeWord pin level)).afterCommand

/-- PIN_READ with a buffer of `depth` entries: the PORT answers the LINE's Level, which ACQ_POLL appends and tests
(40_gpio R114, 41_sampler R124). In a phase that polls nothing the answer is dropped (log 18). -/
def pinReadAt (depth : Nat) (pin : Pin) (s : State) : Result :=
  let answered := (s.completePort (pinReadWord pin)).advanceLine
  match s.phase with
  | .acqPoll => answered.takeSample depth s.lineLevel
  | .idle => .next answered.afterCommand
  | .acqRequest => .next answered.afterCommand
  | .extract => .next answered.afterCommand
  | .decode => .next answered.afterCommand
  | .validate => .next answered.afterCommand
  | .backoff => .next answered.afterCommand

/-- PIN_READ(pin) completes (40_gpio R114). -/
def execPinRead (pin : Pin) (s : State) : Result := pinReadAt Config.traceDepth pin s

/-- SLEEP(duration) completes; the model keeps no time (40_gpio R115, 00_scope R16; log 20). -/
def execSleep (pin : Pin) (duration : Nat) (s : State) : Result :=
  .next (s.completePort (sleepWord pin duration)).afterCommand

/-! ## The pin, as far as the block has left it (45_retry R177, 70_reset R223) -/

/-- What the commands completed or dropped so far say of a pin (log 6). -/
inductive PinView where
  /-- No command has set it: as the PORT has it (70_reset R223). -/
  | asFound
  /-- An output at a Level (40_gpio R111, R113). -/
  | output (level : Level)
  /-- An input (40_gpio R112). -/
  | input
  /-- Not specified: a WRITE to a pin that is no output (40_gpio R113; log 14), or a command dropped by a reset
  (70_reset R224; log 13). -/
  | unspecified
deriving DecidableEq, Repr

/-- A WRITE drives the pin if the PORT has it as an output (40_gpio R113; log 14). -/
def PinView.afterWrite (l : Level) : PinView → PinView
  | .output _ => .output l
  | .asFound => .unspecified
  | .input => .unspecified
  | .unspecified => .unspecified

/-- What one completed command does to the view of a pin (40_gpio R111 to R115). -/
def PinView.afterInstr (pin : Pin) (v : PinView) (i : Instr) : PinView :=
  match i with
  | .cfgOut p l => if p = pin then .output l else v
  | .cfgIn p => if p = pin then .input else v
  | .write p l => if p = pin then v.afterWrite l else v
  | .pinRead _ => v
  | .sleep _ _ => v
  | .read => v
  | .acqRequest => v
  | .acqPoll => v
  | .extract => v
  | .decode => v
  | .validate => v
  | .backoff => v

/-- What one port event does to the view of a pin (40_gpio R111 to R115, 70_reset R224). -/
def PinView.afterEvent (pin : Pin) (v : PinView) : PortEvent → PinView
  | .completed w =>
    match decodePortWord w with
    | .ok i => v.afterInstr pin i
    | .error _ => v
  | .dropped w => if pinOfWord w = pin then .unspecified else v

/-- The view of a pin after a log of port events, newest first. -/
def pinLeft (pin : Pin) : List PortEvent → PinView
  | [] => .asFound
  | e :: log => (pinLeft pin log).afterEvent pin e

end Sys2Proof.Machine
end

