-- ==== Sys2Proof/Machine/Retry.lean ====
section
/-! DEFINITION. Sys2Proof/Machine/Retry.lean: the RetryController's BACKOFF and READ (45_retry). -/

namespace Sys2Proof.Machine

/-- BACKOFF issues SLEEP(MIN_INTERVAL); the exhaustion test follows its completion (45_retry R173). -/
def execBackoff (s : State) : Result := .next (s.issue (sleepWord s.pin s.minInterval.toNat))

/-- READ's start when the block is not busy (45_retry R176). -/
def State.beginRead (s : State) : State :=
  if s.maxTries = 0 then s.clearReading.failAtOnce else s.clearReading.startAttempting

/-- READ (45_retry R176); while RSTATE = Attempting the spec gives it no meaning (R181, U2; log 11). -/
def execRead (s : State) : Result :=
  if s.busy then .refused (.hostWriteWhileBusy 0) else .next s.beginRead

end Sys2Proof.Machine
end

