-- ==== Sys2Proof/Machine/Sampler.lean ====
section
/-! DEFINITION. Sys2Proof/Machine/Sampler.lean: the WaveformSampler (41_sampler). -/

namespace Sys2Proof.Machine

/-- ACQ_REQUEST issues the handshake command of STEP; STEP advances when the command completes (41_sampler R121). -/
def execAcqRequest (s : State) : Result := .next (s.issue (handshakeWord s.pin s.stepNo))

/-- The head of ACQ_POLL's loop with a buffer of `depth` entries: AcquisitionTimeout if TLEN = depth, else one PIN_READ is
issued (41_sampler R122, R126). -/
def State.pollHead (depth : Nat) (s : State) : State :=
  if s.tlen = depth then s.failAttempt .acquisitionTimeout else s.issue (pinReadWord s.pin)

/-- ACQ_POLL with a buffer of `depth` entries: the initialisation at the entry of a capture (41_sampler R123), then the head
of the loop (R122). -/
def acqPollAt (depth : Nat) (s : State) : State :=
  if s.polling then s.pollHead depth else s.startCapture.pollHead depth

/-- ACQ_POLL (41_sampler R122); the poll's bookkeeping is PIN_READ's completion. -/
def execAcqPoll (s : State) : Result := .next (acqPollAt Config.traceDepth s)

end Sys2Proof.Machine
end

