-- ==== Sys2Proof/Machine/Validator.lean ====
section
/-! DEFINITION. Sys2Proof/Machine/Validator.lean: the FrameValidator (44_validator). -/

namespace Sys2Proof.Machine

/-- Accept or reject once SUM is formed (44_validator R164). -/
def State.judgeChecksum (s : State) : State :=
  if frameByte s.acc 4 = s.sum then
    s.succeed (toTenths (temperatureTenths s.acc)) (toTenths (humidityTenths s.acc))
  else s.failAttempt .checksumMismatch

/-- VALIDATE, taken whole (44_validator R164). -/
def execValidate (s : State) : Result := .next s.storeSum.judgeChecksum

end Sys2Proof.Machine
end

