-- ==== Sys2Proof/Machine/Dispatch.lean ====
section
/-! DEFINITION. Sys2Proof/Machine/Dispatch.lean: one arm per operation of 30_encoding R95. -/

namespace Sys2Proof.Machine

def exec (i : Instr) (s : State) : Host.Outcome State Fault Refusal :=
  match i with
  | .read => Sys2Proof.Machine.execRead s
  | .cfgOut pin level => Sys2Proof.Machine.execCfgOut pin level s
  | .cfgIn pin => Sys2Proof.Machine.execCfgIn pin s
  | .write pin level => Sys2Proof.Machine.execWrite pin level s
  | .pinRead pin => Sys2Proof.Machine.execPinRead pin s
  | .sleep pin duration => Sys2Proof.Machine.execSleep pin duration s
  | .acqRequest => Sys2Proof.Machine.execAcqRequest s
  | .acqPoll => Sys2Proof.Machine.execAcqPoll s
  | .extract => Sys2Proof.Machine.execExtract s
  | .decode => Sys2Proof.Machine.execDecode s
  | .validate => Sys2Proof.Machine.execValidate s
  | .backoff => Sys2Proof.Machine.execBackoff s

end Sys2Proof.Machine
end

