-- ==== Sys2Proof/Machine/Fetch.lean ====
section
/-! DEFINITION. Sys2Proof/Machine/Fetch.lean: the host registers (10_state R40 to R51), reset (70_reset R220), and which
operation the next step performs. The block fetches nothing from memory (10_state R21): an operation is named by the
outstanding port word, by PHASE, or by a host write of CMD. -/

namespace Sys2Proof.Machine

/-- What the next step is. -/
inductive Fetched where
  /-- The operation i, performed at the state s. -/
  | run (i : Instr) (s : State)
  /-- No operation of the table: a host access, a reset, or waiting. -/
  | done (r : Result)

/-- A host read (10_state R40 to R50); it has no side effect on the block (20_memory R69). -/
def State.hostReadValue (s : State) (reg : RegNum) : HostWord :=
  match reg with
  | 1 => lowField s.pin
  | 2 => lowField s.maxTries
  | 3 => s.minInterval
  | 4 => lowField (BitVec.ofBool s.raise)
  | 5 => s.stateRegister
  | 6 => lowField s.status.code
  | 7 => tenthsField s.temperature
  | 8 => tenthsField s.humidity
  | _ => 0

/-- The host reads a register: `h_rdata` takes its value (10_state R52; log 19). -/
def State.hostRead (reg : RegNum) (s : State) : State := { s with rdata := s.hostReadValue reg }

/-- PIN <- wdata[7:0] (10_state R42). -/
def State.setPin (data : HostWord) (s : State) : State := { s with pin := data.extractLsb' 0 8 }

/-- MAX_TRIES <- wdata[7:0] (10_state R43). -/
def State.setMaxTries (data : HostWord) (s : State) : State := { s with maxTries := data.extractLsb' 0 8 }

/-- MIN_INTERVAL <- wdata (10_state R44). -/
def State.setMinInterval (data : HostWord) (s : State) : State := { s with minInterval := data }

/-- RAISE <- wdata[0] (10_state R45). -/
def State.setPolicy (data : HostWord) (s : State) : State := { s with raise := data.getLsbD 0 }

/-- A write to a register that may be written only while BUSY = 0, with its answer there (10_state R51, U2; log 11). -/
def State.guardedWrite (s : State) (reg : RegNum) (answer : Result) : Fetched :=
  if s.busy then .done (.refused (.hostWriteWhileBusy reg)) else .done answer

/-- What a write to CMD with a code that names no operation answers while BUSY = 0: code 0x00 has no effect, a reserved code is
refused (30_encoding R96, U3; log 12). -/
def State.otherCommand (s : State) (code : BitVec 8) : Result :=
  if code = 0x00 then .next s else .refused (.hostCommandReserved code)

/-- A host write (10_state R41 to R51, 30_encoding R96): CMD performs the command its code names; registers 5 to 15 ignore
it. -/
def hostWriteRegister (reg : RegNum) (data : HostWord) (s : State) : Fetched :=
  match reg with
  | 0 =>
    match Sys2Proof.decode (.hcmd (commandCode data)) with
    | .ok i => .run i s
    | .error _ => s.guardedWrite 0 (s.otherCommand (commandCode data))
  | 1 => s.guardedWrite 1 (.next (s.setPin data))
  | 2 => s.guardedWrite 2 (.next (s.setMaxTries data))
  | 3 => s.guardedWrite 3 (.next (s.setMinInterval data))
  | 4 => s.guardedWrite 4 (.next (s.setPolicy data))
  | _ => .done (.next s)

/-- The port events after a reset: a command outstanding is dropped (70_reset R220, R224; log 13). -/
def State.logAfterReset (s : State) : List PortEvent :=
  match s.outstanding with
  | some w => .dropped w :: s.portLog
  | none => s.portLog

/-- Reset: every register of the block at its reset value, nothing outstanding; the outside of the block (the HOST's and the
LINE's lists, the PORT's history) is not reset (70_reset R220, R223, R224; log 13). -/
def State.applyReset (s : State) : State :=
  { State.reset with env := s.env, line := s.line, lineIdx := s.lineIdx, portLog := s.logAfterReset }

/-- CTRL's and the PORT's step: complete the outstanding command, or while RSTATE = Attempting perform the operation PHASE
names (45_retry R176), or wait (IDLE, 30_encoding R88; log 5). A command is completed whatever its pin (40_gpio R117): that the
PORT has every pin number is the model's choice, where U18 leaves one it has not to the PORT: DESIGN CHOICE, unsafe, log 24. -/
def ctrlFetch (s : State) : Fetched :=
  match s.outstanding with
  | some w =>
    match Sys2Proof.decode (.gcmd w) with
    | .ok i => .run i s
    | .error _ => .done (.refused (.portWordUndefined w))
  | none =>
    if s.busy then
      match Sys2Proof.decode (.phase s.phase.code) with
      | .ok i => .run i s
      | .error _ => .done (.next s)
    else .done (.next s)

/-- The step an event of the outside takes (log 4). -/
def eventFetch (e : EnvEvent) (s : State) : Fetched :=
  match e with
  | .hostRead reg => .done (.next (s.hostRead reg))
  | .hostWrite reg data => hostWriteRegister reg data s
  | .reset => .done (.next s.applyReset)
  | .pass => ctrlFetch s

/-- The next step: the outside's next event if there is one, else CTRL and the PORT (log 4). -/
def fetch (s : State) : Fetched :=
  match s.env with
  | [] => ctrlFetch s
  | e :: rest => eventFetch e { s with env := rest }

end Sys2Proof.Machine
end

