-- ==== Sys2Proof/Machine/Step.lean ====
section
/-! DEFINITION. Sys2Proof/Machine/Step.lean: one step of the machine, and where a table word is placed to be run next. -/

namespace Sys2Proof.Machine

/-- Performing what `fetch` found: an operation by `exec`. -/
def Fetched.perform : Fetched → Result
  | .run i t => exec i t
  | .done r => r

/-- One step of the machine. -/
def step (s : State) : Host.Outcome State Fault Refusal := (fetch s).perform

/-- s with a word of opcode_table.json placed where the next step takes its operation from: a GCMD word is made the
outstanding command, a PHASE code is put into PHASE with the controller attempting and nothing outstanding, an HCMD code is
the HOST's next write of CMD (logs 4 and 15). -/
def State.withFetchWord (s : State) (nbits w : Nat) : State :=
  match tableCodeWord nbits w with
  | some (.gcmd word) => { s with env := .pass :: s.env, outstanding := some word }
  | some (.hcmd code) => { s with env := .hostWrite 0 (lowField code) :: s.env }
  | some (.phase code) =>
    match Phase.ofCode code with
    | some p => { s with env := .pass :: s.env, outstanding := none, rstate := .attempting, phase := p }
    | none => s
  | none => s

end Sys2Proof.Machine
end

