-- ==== Sys2Proof/Safety.lean ====
section
/-! DEFINITION. Sys2Proof/Safety.lean: what counts as a sound state, and the terms in which claims speak of captures, widths
and waveforms. Nothing here is part of the machine. -/

namespace Sys2Proof.Safety

open Sys2Proof.Machine

/-! ## Runs -/

/-- k steps, stopping at the first fault or refusal: `Host.Core.run` of this machine. -/
def runFor : Nat → State → Result
  | 0, s => .next s
  | k + 1, s =>
    match step s with
    | .next t => runFor k t
    | .fault f => .fault f
    | .refused r => .refused r

/-! ## The invariant of the block -/

/-- The one command CTRL can have outstanding in a state (45_retry R177, "Nothing else is ever sent"). -/
def commandNow (s : State) : Option PortWord :=
  match s.phase with
  | .acqRequest => some (handshakeWord s.pin s.stepNo)
  | .acqPoll => if s.polling then some (pinReadWord s.pin) else none
  | .backoff => some (sleepWord s.pin s.minInterval.toNat)
  | .idle => none
  | .extract => none
  | .decode => none
  | .validate => none

/-- The sequencer: PHASE is not IDLE exactly while Attempting (10_state R22), STEP is 0 outside ACQ_REQUEST (R21), a capture
is in progress only in ACQ_POLL, and only the phase's own command is outstanding (45_retry R177). -/
structure SequencerInv (s : State) : Prop where
  busy_iff : s.phase ≠ .idle ↔ s.rstate = .attempting
  step_zero : s.phase ≠ .acqRequest → s.stepNo = 0
  polling_phase : s.polling = true → s.phase = .acqPoll
  outstanding_now : ∀ w, s.outstanding = some w → commandNow s = some w

/-- The capture: the trace's canonical form inside its TRACE_DEPTH entries, TLEN in range (10_state R27), every entry below
TLEN written while a rule may read it (R36), room for the sample being polled (20_memory R62), UNCHANGED in range (R26). -/
structure CaptureInv (s : State) : Prop where
  trace_wf : s.trace.wf = true
  trace_inside : ∀ a, (s.trace.readByte a).isSome = true → a < Config.traceDepth
  tlen_le : s.tlen ≤ Config.traceDepth
  written : (s.polling = true ∨ s.phase = .extract) → ∀ i, i < s.tlen → (s.trace.readByte i).isSome = true
  room : s.polling = true → s.outstanding.isSome = true → s.tlen < Config.traceDepth
  unchanged_le : s.unchanged.toNat ≤ Config.unchangedThreshold
  unchanged_lt : s.polling = true → s.unchanged.toNat < Config.unchangedThreshold
  first_poll : s.polling = true → s.lastv = false → s.tlen = 0

/-- The attempt counter: below MAX_TRIES where an attempt runs, at most MAX_TRIES in BACKOFF (10_state R23), 0 in Idle. -/
structure RetryInv (s : State) : Prop where
  tries_lt : s.rstate = .attempting → s.phase ≠ .backoff → s.tries.toNat < s.maxTries.toNat
  tries_le : s.phase = .backoff → 0 < s.tries.toNat ∧ s.tries.toNat ≤ s.maxTries.toNat
  tries_idle : s.rstate = .idle → s.tries = 0

/-- The Reading: status Ok exactly in Succeeded (45_retry R180), never ChecksumError (10_state R47), the sentinel whenever
the status is not Ok (U7), in range when it is (44_validator R166). -/
structure ResultInv (s : State) : Prop where
  ok_iff : s.status = .ok ↔ s.rstate = .succeeded
  no_checksum_error : s.status ≠ .checksumError
  sentinel : s.status ≠ .ok → s.temperature = sentinelTenths ∧ s.humidity = sentinelTenths
  temperature_range : s.status = .ok → -2677 ≤ s.temperature.toInt ∧ s.temperature.toInt ≤ 2677
  humidity_range : s.status = .ok → 0 ≤ s.humidity.toInt ∧ s.humidity.toInt ≤ 2805

/-- The counters: PCOUNT at most 41 (10_state R30), the counts at most TRACE_DEPTH (R27, R29, R31, R32), forty widths of at
least 1 where DECODE reads them (R31, 20_memory R64). -/
structure CounterInv (s : State) : Prop where
  pcount_le : s.pcount.toNat ≤ 41
  run_le : s.run ≤ Config.traceDepth
  wmin_le : s.wmin ≤ Config.traceDepth
  wmax_le : s.wmax ≤ Config.traceDepth
  pw_le : ∀ w ∈ s.pw.toList, w ≤ Config.traceDepth
  decode_ready : s.phase = .decode → s.pcount.toNat = Config.nBits ∧ ∀ w ∈ s.pw.toList, 1 ≤ w

/-- The phases in which the pin is an input (45_retry R177). -/
def listening (p : Phase) : Bool :=
  match p with
  | .acqPoll => true
  | .extract => true
  | .decode => true
  | .validate => true
  | .backoff => true
  | .idle => false
  | .acqRequest => false

/-- The pin: an input, as far as the block has left it, from the end of ACQ_REQUEST to the end of BACKOFF (45_retry R177). -/
structure PinInv (s : State) : Prop where
  listening_input : listening s.phase = true → pinLeft s.pin s.portLog = .input

/-- A sound state of the block. -/
structure Sound (s : State) : Prop where
  sequencer : SequencerInv s
  capture : CaptureInv s
  retry : RetryInv s
  result : ResultInv s
  counters : CounterInv s
  pinInput : PinInv s

/-! ## Captures (41_sampler R125 to R127) -/

/-- The last 201 samples exist and are equal (41_sampler R125, R127 b). -/
def Settled (levels : List Level) : Prop :=
  ∃ c, levels.drop (levels.length - 201) = List.replicate 201 c

/-- A complete capture: settled, and settled at no earlier poll (41_sampler R125, "exactly when the trace ends with 201 equal
samples, and not before"). -/
def CompleteCapture (levels : List Level) : Prop :=
  Settled levels ∧ ∀ n, n < levels.length → ¬ Settled (levels.take n)

/-- n PIN_READ commands completed, as port events. -/
def polls (n : Nat) (pin : Pin) : List PortEvent := List.replicate n (.completed (pinReadWord pin))

/-- The seven handshake commands completed, newest first (41_sampler R121). -/
def handshake (pin : Pin) : List PortEvent :=
  [.completed (cfgInWord pin), .completed (sleepWord pin 20000), .completed (writeWord pin .low),
    .completed (sleepWord pin 50000), .completed (writeWord pin .high), .completed (sleepWord pin 500000),
    .completed (cfgOutWord pin .high)]

/-! ## Pulse widths, as an unbounded list (42_extractor R141, R143, R144, R147) -/

/-- The lengths of the High runs that a Low sample ends, n High samples having been counted (42_extractor R143, R144). -/
def highRuns : Nat → List Level → List Nat
  | _, [] => []
  | n, .high :: rest => highRuns (n + 1) rest
  | 0, .low :: rest => highRuns 0 rest
  | n + 1, .low :: rest => (n + 1) :: highRuns 0 rest

/-- What follows the High run of the earliest Low, High, Low marker (42_extractor R141): leading High samples, then the Low
run, then the High run are skipped. -/
def afterMarker (levels : List Level) : List Level :=
  ((levels.dropWhile (· == .high)).dropWhile (· == .low)).dropWhile (· == .high)

/-- The source's PulseWidths, of any length (42_extractor R140, R147). -/
def pulseWidths (levels : List Level) : List Nat := highRuns 0 (afterMarker levels)

/-- XS after the scan of a trace: how much of the marker it holds (42_extractor R141, R142, R145). -/
def scanEnd (levels : List Level) : ScanState :=
  if levels.dropWhile (· == .high) = [] then .seekLow
  else if (levels.dropWhile (· == .high)).dropWhile (· == .low) = [] then .seekHigh
  else if afterMarker levels = [] then .seekFall
  else .data

/-- The length of the High run that no Low ends, which EXTRACT leaves in RUN and discards (42_extractor R144, R145). -/
def openRun (levels : List Level) : Nat := (levels.reverse.takeWhile (· == .high)).length

/-- Clean pulses: each a High run and the Low run that ends it, both one longer than listed so that neither is empty. -/
def cleanPulses (pulses : List (Nat × Nat)) : List Level :=
  pulses.flatMap fun p => List.replicate (p.1 + 1) .high ++ List.replicate (p.2 + 1) .low

/-- A well-formed trace: leading High samples, a marker, clean pulses, a tail (42_extractor R146 f). -/
def markedTrace (lead low high gap : Nat) (pulses : List (Nat × Nat)) (tail : Level) (n : Nat) : List Level :=
  List.replicate lead .high ++ List.replicate (low + 1) .low ++ List.replicate (high + 1) .high ++
    List.replicate (gap + 1) .low ++ cleanPulses pulses ++ List.replicate n tail

/-- The forty pulses of a frame, most significant bit first (30_encoding R82): a 1 is `long` wide, a 0 is `short` wide,
with `gap` Low samples after each (all one longer than the number says). -/
def framePulses (short long gap : Nat) (acc : BitVec 40) : List (Nat × Nat) :=
  (List.range 40).map fun i => (if acc.getLsbD (39 - i) then long else short, gap)

/-! ## What is live of the attempt-scoped state (10_state R36, 70_reset R222) -/

/-- Two states that agree on everything but attempt-scoped values that no later step of the attempt may read. -/
structure SameButStale (s t : State) : Prop where
  same : t = { s with
    att := t.att, lastv := t.lastv, last := t.last, unchanged := t.unchanged, tlen := t.tlen, trace := t.trace, xs := t.xs,
    run := t.run, pcount := t.pcount, pw := t.pw, wmin := t.wmin, wmax := t.wmax, acc := t.acc, sum := t.sum }
  capture : s.polling = true →
    t.lastv = s.lastv ∧ (s.lastv = true → t.last = s.last) ∧ t.unchanged = s.unchanged
  traces : (s.polling = true ∨ s.phase = .extract) →
    t.tlen = s.tlen ∧ ∀ i, i < s.tlen → t.trace.readByte i = s.trace.readByte i
  widths : s.phase = .decode → t.pw = s.pw
  frame : s.phase = .validate → t.acc = s.acc

end Sys2Proof.Safety
end

