-- ==== Sys2Proof/Certificates/Slice0/Obligations.lean ====
section
/-! DEFINITION. Sys2Proof/Certificates/Slice0/Obligations.lean: the statements for the provers. Each docstring names the rule
of spec/ it formalises, or says that it speaks of the model's own choice and names the log entry. Wherever a statement speaks
of `portLog`, it speaks of commands that have completed, or that a reset dropped: the PORT is presented with a word from its
issue on (`outstanding`, 40_gpio R110), and that the list notes it at completion is the model's choice, log 6. That issue and
completion are a step each is log 5. -/

open Sys2Proof Sys2Proof.Machine Sys2Proof.Safety

/-! ## Encoding -/

/-- opcode_table.json and 30_encoding R95: the words of the spec's examples (40_gpio, 95_test_vectors G1, G4, G6) and the codes
of READ and of the phases name their operations. -/
def Obligations.SampleWordsNameTheirOperations : Prop :=
  decode (.hcmd 0x01) = .ok .read ∧
  decode (.gcmd 0x010400000001) = .ok (.cfgOut 4 .high) ∧
  decode (.gcmd 0x020400000000) = .ok (.cfgIn 4) ∧
  decode (.gcmd 0x030400000000) = .ok (.write 4 .low) ∧
  decode (.gcmd 0x04FF00000000) = .ok (.pinRead 255) ∧
  decode (.gcmd 0x05040007A120) = .ok (.sleep 4 500000) ∧
  decode (.phase 1) = .ok .acqRequest ∧ decode (.phase 6) = .ok .backoff

/-- 30_encoding R90, R91, R88: decoding the code word of a well-formed operation gives that operation, for every operand. -/
def Obligations.DecodeOfEncode : Prop :=
  ∀ i : Instr, i.wf = true → decode (encode i) = .ok i

/-- 30_encoding R95, R97: a code word has at most one meaning, and no bit of it is dropped. That the decoder looks at the
argument bits that R91 says are 0, and so finds no operation in a word with one of them set, is the model's (log 17). -/
def Obligations.EncodeOfDecode : Prop :=
  ∀ (c : CodeWord) (i : Instr), decode c = .ok i → encode i = c ∧ i.wf = true

/-- 30_encoding R96 with R90 to R92 and R88: exactly the words of the formats are decoded. -/
def Obligations.DecodeAcceptsExactlyTheFormats : Prop :=
  ∀ c : CodeWord, (decode? c).isSome = c.wf

/-! ## The step -/

/-- 45_retry R176, 40_gpio R110, 10_state R41: a step performs the operation that the outstanding word, PHASE, or the HOST's
write of CMD names, at the state itself less the event of the outside that the step has taken (log 4). -/
def Obligations.StepRunsTheNamedOperation : Prop :=
  (∀ (s t : State) (w : PortWord) (i : Instr),
    (s.env = [] ∧ t = s ∨ ∃ rest, s.env = .pass :: rest ∧ t = { s with env := rest }) →
    s.outstanding = some w → decode (.gcmd w) = .ok i → step s = exec i t) ∧
  (∀ (s t : State) (i : Instr),
    (s.env = [] ∧ t = s ∨ ∃ rest, s.env = .pass :: rest ∧ t = { s with env := rest }) →
    s.outstanding = none → s.rstate = .attempting → decode (.phase s.phase.code) = .ok i → step s = exec i t) ∧
  (∀ (s : State) (d : HostWord) (rest : List EnvEvent) (i : Instr), s.env = .hostWrite 0 d :: rest →
    decode (.hcmd (d.extractLsb' 0 8)) = .ok i → step s = exec i { s with env := rest })

/-- 70_reset R220: with nothing asked of it the block waits in IDLE and issues no port command on its own. -/
def Obligations.BlockWaitsInIdle : Prop :=
  ∀ s : State, s.env = [] → s.outstanding = none → s.rstate ≠ .attempting → step s = .next s

/-! ## Reset -/

/-- 10_state R37: every value the table states for reset. -/
def Obligations.ResetState : Prop :=
  let s := State.reset
  s.phase = .idle ∧ s.stepNo = 0 ∧ s.rstate = .idle ∧ s.tries = 0 ∧ s.pin = 0 ∧ s.maxTries = 10 ∧
  s.minInterval = 2000000 ∧ s.raise = false ∧ s.status = .timeoutError ∧ s.temperature.toInt = -10 ∧
  s.humidity.toInt = -10 ∧ s.outstanding = none ∧
  s.busy = false ∧ s.done = false ∧ s.valid = false ∧ s.raised = false ∧
  s.hostReadValue 7 = 0xFFFFFFF6 ∧ s.hostReadValue 8 = 0xFFFFFFF6

/-- 10_state R40, R50: what the HOST reads after reset from each of the sixteen registers. -/
def Obligations.ResetRegistersRead : Prop :=
  State.reset.hostReadValue 0 = 0 ∧ State.reset.hostReadValue 1 = 0 ∧ State.reset.hostReadValue 2 = 10 ∧
  State.reset.hostReadValue 3 = 2000000 ∧ State.reset.hostReadValue 4 = 0 ∧ State.reset.hostReadValue 5 = 0 ∧
  State.reset.hostReadValue 6 = 2 ∧ State.reset.hostReadValue 7 = 0xFFFFFFF6 ∧
  State.reset.hostReadValue 8 = 0xFFFFFFF6 ∧
  ∀ r : RegNum, 9 ≤ r.toNat → State.reset.hostReadValue r = 0

/-- 70_reset R220, R224: a reset event puts every register of the block at its reset value and drops the outstanding command,
also in mid-run; the outside's lists stay, and the PORT's history records the drop (log 13). -/
def Obligations.ResetEventClearsTheBlock : Prop :=
  ∀ (s : State) (rest : List EnvEvent), s.env = .reset :: rest →
    step s = .next { State.reset with
      env := rest, line := s.line, lineIdx := s.lineIdx,
      portLog := (match s.outstanding with | some w => [PortEvent.dropped w] | none => []) ++ s.portLog }

/-! ## READ -/

/-- 45_retry R176 (its start), R182: READ from Idle, Succeeded or Failed with attempts to make. -/
def Obligations.ReadStartsAnAttempt : Prop :=
  ∀ s : State, s.rstate ≠ .attempting → s.maxTries ≠ 0 →
    exec .read s = .next { s with
      tries := 0, status := .timeoutError, temperature := -10, humidity := -10,
      rstate := .attempting, phase := .acqRequest, stepNo := 0 }

/-- 45_retry R183: READ with MAX_TRIES = 0 goes straight to Failed with the sentinel Reading, no port command issued. -/
def Obligations.ReadWithNoTriesFails : Prop :=
  ∀ s : State, s.rstate ≠ .attempting → s.maxTries = 0 →
    exec .read s = .next { s with
      tries := 0, status := .timeoutError, temperature := -10, humidity := -10, rstate := .failed }

/-- 45_retry R181, 10_state R51 and U2: READ while busy has no meaning; the model refuses it (log 11). -/
def Obligations.ReadWhileBusyRefused : Prop :=
  ∀ s : State, s.rstate = .attempting → exec .read s = .refused (.hostWriteWhileBusy 0)

/-! ## The handshake and the port commands -/

/-- 41_sampler R121, 30_encoding R88 and R91: ACQ_REQUEST issues, at each STEP, the command the rule lists, and changes
nothing else. -/
def Obligations.AcqRequestIssuesTheHandshake : Prop :=
  ∀ s : State, exec .acqRequest s = .next { s with
    outstanding := some (match s.stepNo with
      | 0 => 0x01#8 ++ s.pin ++ 1#32
      | 1 => 0x05#8 ++ s.pin ++ 500000#32
      | 2 => 0x03#8 ++ s.pin ++ 1#32
      | 3 => 0x05#8 ++ s.pin ++ 50000#32
      | 4 => 0x03#8 ++ s.pin ++ 0#32
      | 5 => 0x05#8 ++ s.pin ++ 20000#32
      | 6 => 0x02#8 ++ s.pin ++ 0#32) }

/-- 41_sampler R121, 40_gpio R110 to R113 and R115: the command of STEP, completing in ACQ_REQUEST, frees the port and advances
STEP, after STEP 6 to ACQ_POLL; nothing else changes. The rules speak of the one command that ACQ_REQUEST issued at this STEP
(`handshakeWord s.pin s.stepNo`, the one word that can be outstanding in a sound state); that any other CFG_OUT, CFG_IN, WRITE
or SLEEP completing there does the same is the model's choice, log 18. -/
def Obligations.PortCommandAdvancesTheHandshake : Prop :=
  ∀ (i : Instr) (w : PortWord) (s : State), encode i = .gcmd w → (∀ p, i ≠ .pinRead p) → s.phase = .acqRequest →
    exec i s = .next { s with
      outstanding := none, portLog := .completed w :: s.portLog,
      stepNo := if s.stepNo = 6 then 0 else s.stepNo + 1,
      phase := if s.stepNo = 6 then .acqPoll else .acqRequest }

/-- 45_retry R173, 60_exceptions R197, R198: a SLEEP that completes in BACKOFF ends the READ as Failed if TRIES = MAX_TRIES,
else begins the next attempt; nothing else changes. The rules speak of SLEEP(MIN_INTERVAL) with PIN, which BACKOFF issues; that
a SLEEP with other operands does the same is the model's choice, log 18. -/
def Obligations.SleepEndsBackoff : Prop :=
  ∀ (pin : Pin) (d : Nat) (s : State), s.phase = .backoff →
    exec (.sleep pin d) s = .next (
      if s.tries = s.maxTries then
        { s with
          outstanding := none, portLog := .completed (0x05#8 ++ pin ++ BitVec.ofNat 32 d) :: s.portLog,
          rstate := .failed, status := .timeoutError, phase := .idle }
      else
        { s with
          outstanding := none, portLog := .completed (0x05#8 ++ pin ++ BitVec.ofNat 32 d) :: s.portLog,
          phase := .acqRequest, stepNo := 0 })

/-- The model's choice, log 18: in a phase that has no such command outstanding, a completed CFG_OUT, CFG_IN, WRITE or SLEEP
only frees the port. -/
def Obligations.PortCommandElsewhereOnlyCompletes : Prop :=
  ∀ (i : Instr) (w : PortWord) (s : State), encode i = .gcmd w → (∀ p, i ≠ .pinRead p) →
    s.phase ≠ .acqRequest → s.phase ≠ .backoff →
    exec i s = .next { s with outstanding := none, portLog := .completed w :: s.portLog }

/-! ## The capture -/

/-- 41_sampler R122, R123, R126 and 45_retry R172: ACQ_POLL at the entry of a capture clears TLEN, UNCHANGED and LASTV and
issues a PIN_READ; at the head of the loop it issues a PIN_READ if TLEN is not TRACE_DEPTH, else it fails the attempt with
AcquisitionTimeout and issues nothing. Whether a state stands at the entry or at the head of the loop is told by the model's own
`polling`, for which the spec names no register: the model's choice, log 7. -/
def Obligations.AcqPollStartsPollsOrTimesOut : Prop :=
  (∀ s : State, s.polling = false → exec .acqPoll s = .next { s with
    tlen := 0, unchanged := 0, lastv := false, polling := true, outstanding := some (0x04#8 ++ s.pin ++ 0#32) }) ∧
  (∀ s : State, s.polling = true → s.tlen ≠ Config.traceDepth → exec .acqPoll s = .next { s with
    outstanding := some (0x04#8 ++ s.pin ++ 0#32) }) ∧
  (∀ s : State, s.polling = true → s.tlen = Config.traceDepth → exec .acqPoll s = .next { s with
    att := .acquisitionTimeout, tries := s.tries + 1, phase := .backoff, polling := false })

/-- 41_sampler R124, R125, 40_gpio R114, 20_memory R62: a poll appends the Level the LINE gave at TRACE[TLEN] and nowhere else,
runs the change detector, and ends the capture exactly when UNCHANGED reaches 200; nothing else changes. The rules speak of
PIN_READ(PIN), which ACQ_POLL issues; that a PIN_READ of another pin does the same is the model's choice, log 18. The clauses on `polling` are log 7's. -/
def Obligations.PinReadAppendsAndDetects : Prop :=
  ∀ (pin : Pin) (s : State), s.phase = .acqPoll → s.tlen < Config.traceDepth →
    ∃ t c, exec (.pinRead pin) s = .next t ∧
      (∀ l rest, s.line = l :: rest → c = l ∧ t.line = rest ∧ t.lineIdx = s.lineIdx) ∧
      (s.line = [] → c = Config.lineLevel s.lineIdx ∧ t.line = [] ∧ t.lineIdx = s.lineIdx + 1) ∧
      t.outstanding = none ∧ t.portLog = .completed (0x04#8 ++ pin ++ 0#32) :: s.portLog ∧
      t.tlen = s.tlen + 1 ∧ t.trace.readLevel s.tlen = some c ∧
      (∀ a, a ≠ s.tlen → t.trace.readByte a = s.trace.readByte a) ∧
      (if s.lastv = false ∨ s.last ≠ c then
        t.unchanged = 0 ∧ t.last = c ∧ t.lastv = true ∧ t.phase = .acqPoll ∧ t.polling = s.polling
      else
        t.unchanged = s.unchanged + 1 ∧ t.last = s.last ∧ t.lastv = s.lastv ∧
        (if (s.unchanged + 1).toNat = 200 then t.phase = .extract ∧ t.polling = false
          else t.phase = .acqPoll ∧ t.polling = s.polling)) ∧
      t = { s with
        outstanding := t.outstanding, portLog := t.portLog, line := t.line, lineIdx := t.lineIdx, tlen := t.tlen,
        trace := t.trace, unchanged := t.unchanged, last := t.last, lastv := t.lastv, phase := t.phase,
        polling := t.polling }

/-- The model's choice, log 18: a PIN_READ that completes in a phase that polls nothing stores no sample and leaves the change
detector alone; the LINE still moves on by one Level, and CTRL goes on as after any other command: in ACQ_REQUEST STEP advances,
in BACKOFF the test for exhaustion is made, in the other phases nothing else changes. -/
def Obligations.PinReadElsewhereStoresNothing : Prop :=
  ∀ (pin : Pin) (s : State), s.phase ≠ .acqPoll →
    ∃ t, exec (.pinRead pin) s = .next t ∧ t.outstanding = none ∧
      t.portLog = .completed (0x04#8 ++ pin ++ 0#32) :: s.portLog ∧
      (∀ l rest, s.line = l :: rest → t.line = rest ∧ t.lineIdx = s.lineIdx) ∧
      (s.line = [] → t.line = [] ∧ t.lineIdx = s.lineIdx + 1) ∧
      t.tlen = s.tlen ∧ (∀ a, t.trace.readByte a = s.trace.readByte a) ∧
      t.last = s.last ∧ t.lastv = s.lastv ∧ t.unchanged = s.unchanged ∧
      t = { s with
        outstanding := t.outstanding, portLog := t.portLog, line := t.line, lineIdx := t.lineIdx,
        stepNo := (match s.phase with
          | .acqRequest => if s.stepNo = 6 then 0 else s.stepNo + 1
          | .backoff => if s.tries = s.maxTries then s.stepNo else 0
          | _ => s.stepNo),
        phase := (match s.phase with
          | .acqRequest => if s.stepNo = 6 then .acqPoll else .acqRequest
          | .backoff => if s.tries = s.maxTries then .idle else .acqRequest
          | p => p),
        rstate := if s.phase = .backoff ∧ s.tries = s.maxTries then .failed else s.rstate,
        status := if s.phase = .backoff ∧ s.tries = s.maxTries then .timeoutError else s.status }

/-- 41_sampler R121 and 45_retry R177: from ACQ_REQUEST at STEP 0 the block has the seven handshake commands completed in order
(`portLog`, log 6; two steps a command, log 5), and is then at the entry of ACQ_POLL with nothing else changed. -/
def Obligations.HandshakeRunSendsSevenCommands : Prop :=
  ∀ s : State, s.env = [] → s.outstanding = none → s.rstate = .attempting → s.phase = .acqRequest → s.stepNo = 0 →
    runFor 14 s = .next { s with phase := .acqPoll, portLog := handshake s.pin ++ s.portLog }

/-- 41_sampler R122, R125, R127 and 20_memory R71: whatever Levels the LINE answers, the capture polls until the first time 201
equal samples have been seen; the trace is then exactly those Levels in poll order, one PIN_READ completed for each (`portLog`, log 6;
two steps a poll, log 5). -/
def Obligations.CaptureRunRecordsTheLine : Prop :=
  ∀ (s : State) (levels rest : List Level), s.env = [] → s.outstanding = none → s.rstate = .attempting →
    s.phase = .acqPoll → s.polling = false → s.line = levels ++ rest → CompleteCapture levels →
    levels.length ≤ Config.traceDepth →
    ∃ t, runFor (2 * levels.length) s = .next t ∧ t.phase = .extract ∧ t.tlen = levels.length ∧
      t.readTrace = .ok levels ∧ t.unchanged = 200 ∧ t.portLog = polls levels.length s.pin ++ s.portLog ∧
      t = { s with
        phase := .extract, tlen := t.tlen, trace := t.trace, unchanged := t.unchanged, last := t.last, lastv := t.lastv,
        line := rest, portLog := t.portLog }

/-- 41_sampler R126, R128 b, 60_exceptions R191: a line that has not settled in TRACE_DEPTH polls ends the attempt with
AcquisitionTimeout after exactly TRACE_DEPTH PIN_READs completed (`portLog`, log 6; two steps a poll, log 5). -/
def Obligations.CaptureRunTimesOutOnARestlessLine : Prop :=
  ∀ (s : State) (levels rest : List Level), s.env = [] → s.outstanding = none → s.rstate = .attempting →
    s.phase = .acqPoll → s.polling = false → s.line = levels ++ rest → levels.length = Config.traceDepth →
    (∀ n, n ≤ levels.length → ¬ Settled (levels.take n)) →
    ∃ t, runFor (2 * levels.length + 1) s = .next t ∧ t.phase = .backoff ∧ t.att = .acquisitionTimeout ∧
      t.tries = s.tries + 1 ∧ t.polling = false ∧ t.line = rest ∧
      t.portLog = polls levels.length s.pin ++ s.portLog ∧ t.rstate = s.rstate ∧ t.status = s.status ∧
      t.temperature = s.temperature ∧ t.humidity = s.humidity ∧ t.outstanding = none

/-! ## EXTRACT -/

/-- 42_extractor R145, R147 and R141 to R144: EXTRACT leaves min(len, 41) in PCOUNT and the first 40 pulse widths in PW, for
the widths as an unbounded list, XS and RUN where the scan ends, and goes on to DECODE exactly when there are 40; for any other
number the attempt fails in one step with InvalidFrameLength (45_retry R172). The clause on the model's own `polling` is
log 7's. -/
def Obligations.ExtractMeasuresThePulseWidths : Prop :=
  ∀ (s : State) (levels : List Level), s.readTrace = .ok levels →
    ∃ t, exec .extract s = .next t ∧ t.pcount.toNat = min (pulseWidths levels).length 41 ∧
      t.pw.toList = (pulseWidths levels).take 40 ++ s.pw.toList.drop (pulseWidths levels).length ∧
      (if (pulseWidths levels).length = 40 then
        t.phase = .decode ∧ t.att = s.att ∧ t.tries = s.tries ∧ t.polling = s.polling
      else
        t.phase = .backoff ∧ t.att = .invalidFrameLength ∧ t.tries = s.tries + 1 ∧ t.polling = false) ∧
      t.xs = scanEnd levels ∧ t.run = openRun (afterMarker levels) ∧
      t = { s with
        xs := t.xs, run := t.run, pcount := t.pcount, pw := t.pw, phase := t.phase, att := t.att, tries := t.tries,
        polling := t.polling }

/-- 42_extractor R146 f (the source's property S1): a marker followed by exactly 40 clean pulses gives exactly their widths, in
capture order, whatever the lengths of the Low runs, the lead and the tail. -/
def Obligations.ExtractYieldsFortyCleanPulses : Prop :=
  ∀ (s : State) (lead low high gap : Nat) (pulses : List (Nat × Nat)) (tail : Level) (n : Nat),
    pulses.length = 40 → s.readTrace = .ok (markedTrace lead low high gap pulses tail n) →
    ∃ t, exec .extract s = .next t ∧ t.phase = .decode ∧ t.pcount = 40 ∧
      t.pw.toList = pulses.map (fun p => p.1 + 1)

/-- 42_extractor R148 a, R192 and 70_reset R234: a trace of one Level only has no marker, and the attempt fails by its length. -/
def Obligations.ExtractRejectsAConstantLine : Prop :=
  ∀ (s : State) (c : Level) (n : Nat), s.readTrace = .ok (List.replicate n c) →
    ∃ t, exec .extract s = .next t ∧ t.pcount = 0 ∧ t.pw = s.pw ∧ t.phase = .backoff ∧
      t.att = .invalidFrameLength ∧ t.tries = s.tries + 1

/-! ## DECODE -/

/-- 43_decoder R151, R152, R153 and R155: WMIN and WMAX are the least and the greatest width, ACC[39 - i] is 1 exactly when
2*PW[i] > WMIN + WMAX, and PHASE becomes VALIDATE; nothing else changes. R150 defines DECODE for PCOUNT = 40 only; that it does
the same for any other PCOUNT is the model's choice, log 23. -/
def Obligations.DecodeThresholdsEveryWidth : Prop :=
  ∀ s : State, ∃ t, exec .decode s = .next t ∧
    t.wmin ∈ s.pw.toList ∧ (∀ w ∈ s.pw.toList, t.wmin ≤ w) ∧
    t.wmax ∈ s.pw.toList ∧ (∀ w ∈ s.pw.toList, w ≤ t.wmax) ∧
    (∀ (i : Nat) (h : i < 40), t.acc.getLsbD (39 - i) = decide (t.wmin + t.wmax < 2 * s.pw[i])) ∧
    t.phase = .validate ∧
    t = { s with wmin := t.wmin, wmax := t.wmax, acc := t.acc, phase := t.phase }

/-- 43_decoder R156 b and 70_reset R230: forty equal widths decode to the all-zero frame, which VALIDATE then accepts with
humidity 0 and temperature 0 (for PCOUNT other than 40 the model's choice, log 23). -/
def Obligations.EqualWidthsDecodeToTheZeroFrame : Prop :=
  ∀ (s : State) (w : Nat), s.pw.toList = List.replicate 40 w →
    ∃ t u, exec .decode s = .next t ∧ t.acc = 0 ∧ exec .validate t = .next u ∧ u.rstate = .succeeded ∧
      u.humidity = 0 ∧ u.temperature = 0

/-- 43_decoder R156 d: multiplying every width by the same positive constant changes no bit, so the decoder does not depend on
the poll rate (for PCOUNT other than 40 the model's choice, log 23). -/
def Obligations.DecodeIgnoresThePollRate : Prop :=
  ∀ (s : State) (k : Nat) (pw : Vector Nat 40), 0 < k → pw.toList = s.pw.toList.map (fun w => k * w) →
    ∃ t u, exec .decode s = .next t ∧ exec .decode { s with pw := pw } = .next u ∧ u.acc = t.acc

/-- 43_decoder R156 f (the source's property S2): where the 0 widths lie in one band and the 1 widths in another, each band
narrower than the gap between them, and both kinds occur, DECODE reproduces the bits (for PCOUNT other than 40 the model's
choice, log 23). -/
def Obligations.DecodeSeparatesTwoClusters : Prop :=
  ∀ (s : State) (bits : BitVec 40) (lo0 hi0 lo1 hi1 : Nat), hi0 < lo1 → hi0 - lo0 < lo1 - hi0 → hi1 - lo1 < lo1 - hi0 →
    bits ≠ 0 → bits ≠ BitVec.allOnes 40 →
    (∀ (i : Nat) (h : i < 40), if bits.getLsbD (39 - i) then lo1 ≤ s.pw[i] ∧ s.pw[i] ≤ hi1
      else lo0 ≤ s.pw[i] ∧ s.pw[i] ≤ hi0) →
    ∃ t, exec .decode s = .next t ∧ t.acc = bits

/-! ## VALIDATE -/

/-- 44_validator R161 to R164, R166 and 45_retry R174: a frame whose fifth byte is the sum of the others modulo 256 ends the
READ as Succeeded, with HUMIDITY and TEMPERATURE exactly the tenths of the rules; nothing else changes. -/
def Obligations.ValidateAcceptsAndDerives : Prop :=
  ∀ (b0 b1 b2 b3 b4 : BitVec 8) (s : State), s.acc = b0 ++ b1 ++ b2 ++ b3 ++ b4 →
    b4.toNat = (b0.toNat + b1.toNat + b2.toNat + b3.toNat) % 256 →
    ∃ t, exec .validate s = .next t ∧ t.sum = b4 ∧
      t.humidity.toInt = 10 * b0.toNat + b1.toNat ∧
      t.temperature.toInt =
        (if b3.getLsbD 7 then -(10 * (b2.toNat : Int) + b3.toNat % 128) else 10 * (b2.toNat : Int) + b3.toNat % 128) ∧
      t.done = true ∧ t.valid = true ∧ t.busy = false ∧
      t = { s with
        sum := b4, att := .ok, status := .ok, temperature := t.temperature, humidity := t.humidity,
        rstate := .succeeded, phase := .idle }

/-- 44_validator R161, R164 and 45_retry R172: any other fifth byte fails the attempt with ChecksumMismatch, and STATUS,
TEMPERATURE and HUMIDITY are not touched. That the model's own `polling` is cleared is log 7's. -/
def Obligations.ValidateRejectsOtherChecksums : Prop :=
  ∀ (b0 b1 b2 b3 b4 : BitVec 8) (s : State), s.acc = b0 ++ b1 ++ b2 ++ b3 ++ b4 →
    b4.toNat ≠ (b0.toNat + b1.toNat + b2.toNat + b3.toNat) % 256 →
    exec .validate s = .next { s with
      sum := b0 + b1 + b2 + b3, att := .checksumMismatch, tries := s.tries + 1, phase := .backoff, polling := false }

/-- 44_validator R161 (the source's property S3): SUM is the sum of the first four bytes modulo 256, and of the 256 fifth bytes
exactly the one equal to it is accepted, for every four bytes. -/
def Obligations.ExactlyOneChecksumIsAccepted : Prop :=
  ∀ (b0 b1 b2 b3 : BitVec 8) (s : State), s.rstate ≠ .succeeded →
    ∃ good : BitVec 8, good.toNat = (b0.toNat + b1.toNat + b2.toNat + b3.toNat) % 256 ∧
      ∀ b4 : BitVec 8, ∃ t,
        exec .validate { s with acc := b0 ++ b1 ++ b2 ++ b3 ++ b4 } = .next t ∧ t.sum = good ∧
        (t.rstate = .succeeded ↔ b4 = good)

/-! ## Failures, BACKOFF, and what a run shows -/

/-- 45_retry R171, R172 and 60_exceptions R196: an operation of an attempt that ends in BACKOFF has written a failure class to
ATT, added 1 to TRIES, and touched neither the Reading nor RSTATE nor the configuration nor the port. -/
def Obligations.AttemptFailureTouchesOnlyTries : Prop :=
  ∀ (i : Instr) (s t : State), i = .acqPoll ∨ i = .extract ∨ i = .validate → s.phase ≠ .backoff →
    exec i s = .next t → t.phase = .backoff →
    t.att = (if i = .acqPoll then .acquisitionTimeout else if i = .extract then .invalidFrameLength
      else .checksumMismatch) ∧
    t.tries = s.tries + 1 ∧ t.rstate = s.rstate ∧ t.status = s.status ∧ t.temperature = s.temperature ∧
    t.humidity = s.humidity ∧ t.outstanding = s.outstanding ∧ t.portLog = s.portLog ∧ t.pin = s.pin ∧
    t.maxTries = s.maxTries ∧ t.minInterval = s.minInterval ∧ t.raise = s.raise

/-- 45_retry R173, 30_encoding R91: BACKOFF issues SLEEP with MIN_INTERVAL and changes nothing else. -/
def Obligations.BackoffIssuesTheDelay : Prop :=
  ∀ s : State, exec .backoff s = .next { s with outstanding := some (0x05#8 ++ s.pin ++ s.minInterval) }

/-- 45_retry R173, R175, 60_exceptions R197: the whole of BACKOFF, the SLEEP and the test after it
(`portLog`, log 6; two steps a command, log 5). -/
def Obligations.BackoffRunSleepsThenRetriesOrEnds : Prop :=
  ∀ s : State, s.env = [] → s.outstanding = none → s.rstate = .attempting → s.phase = .backoff →
    runFor 2 s = .next (
      if s.tries = s.maxTries then
        { s with
          portLog := .completed (0x05#8 ++ s.pin ++ s.minInterval) :: s.portLog,
          rstate := .failed, status := .timeoutError, phase := .idle }
      else
        { s with
          portLog := .completed (0x05#8 ++ s.pin ++ s.minInterval) :: s.portLog,
          phase := .acqRequest, stepNo := 0 })

/-- 10_state R23 and 45_retry R176: no operation changes TRIES but READ, which clears it, and a failed attempt, which adds 1. -/
def Obligations.TriesCountsFailedAttempts : Prop :=
  ∀ (i : Instr) (s t : State), exec i s = .next t →
    (i = .read ∧ t.tries = 0) ∨
    ((i = .acqPoll ∨ i = .extract ∨ i = .validate) ∧ t.phase = .backoff ∧ t.att ≠ .ok ∧ t.tries = s.tries + 1) ∨
    (i ≠ .read ∧ t.tries = s.tries)

/-- 10_state R51 and 45_retry R178: no operation writes PIN, MAX_TRIES, MIN_INTERVAL or RAISE. -/
def Obligations.OperationsNeverWriteTheConfiguration : Prop :=
  ∀ (i : Instr) (s t : State), exec i s = .next t →
    t.pin = s.pin ∧ t.maxTries = s.maxTries ∧ t.minInterval = s.minInterval ∧ t.raise = s.raise

/-- 45_retry R171, R174, R176 and 10_state R51: TEMPERATURE and HUMIDITY change only in READ and in a VALIDATE that succeeds;
STATUS in those and where BACKOFF's delay ends exhausted. -/
def Obligations.ReadingWrittenOnlyAtTheEnds : Prop :=
  ∀ (i : Instr) (s t : State), exec i s = .next t → i ≠ .read →
    ((t.temperature = s.temperature ∧ t.humidity = s.humidity) ∨ (i = .validate ∧ t.rstate = .succeeded)) ∧
    (t.status = s.status ∨ (i = .validate ∧ t.status = .ok ∧ t.rstate = .succeeded) ∨
      (s.phase = .backoff ∧ s.tries = s.maxTries ∧ t.status = .timeoutError ∧ t.rstate = .failed))

/-- 20_memory R62 and R60: no operation changes an entry of TRACE but a PIN_READ in ACQ_POLL, and that only at TLEN. -/
def Obligations.TraceWrittenOnlyByAPoll : Prop :=
  ∀ (i : Instr) (s t : State), exec i s = .next t → ∀ a : Nat,
    ¬ ((∃ p, i = .pinRead p) ∧ s.phase = .acqPoll ∧ a = s.tlen) → t.trace.readByte a = s.trace.readByte a

/-- 40_gpio R110 and 45_retry R170, R177, 00_scope R12: an operation that completes a port command frees the port, and its word is
noted in `portLog` as completed; READ and the phases complete no command. The phases do issue words, which the PORT is presented
with from then on (`outstanding`, R110); that the list takes a word at its completion and not at its issue is the model's choice,
log 6. -/
def Obligations.PortHearsExactlyTheCommands : Prop :=
  ∀ (i : Instr) (s t : State), exec i s = .next t →
    (∀ w, encode i = .gcmd w → t.portLog = .completed w :: s.portLog ∧ t.outstanding = none) ∧
    ((∀ w, encode i ≠ .gcmd w) → t.portLog = s.portLog)

/-- 00_scope R14, 45_retry R170, R174, R176: a step ends BUSY only in a reset, in a VALIDATE that succeeds (RSTATE Succeeded), or
in a command that completes in BACKOFF with TRIES = MAX_TRIES (RSTATE Failed). -/
def Obligations.BusyEndsOnlyAtAnOutcome : Prop :=
  ∀ s t : State, step s = .next t → s.rstate = .attempting → t.rstate ≠ .attempting →
    (∃ rest, s.env = .reset :: rest) ∨
    (t.rstate = .succeeded ∧ s.phase = .validate ∧ s.outstanding = none ∧ t.status = .ok) ∨
    (t.rstate = .failed ∧ s.phase = .backoff ∧ s.outstanding.isSome = true ∧ s.tries = s.maxTries ∧
      t.status = .timeoutError)

/-- From EXTRACT to the Reading (42_extractor R145, 43_decoder R155, 44_validator R164, 20_memory R66): a trace that carries a
frame with a right checksum as pulses of two widths gives, in three steps, Succeeded with that frame's values. -/
def Obligations.GoodFrameRunSucceeds : Prop :=
  ∀ (s : State) (b0 b1 b2 b3 b4 : BitVec 8) (lead low high gap short long between : Nat) (tail : Level) (n : Nat),
    short < long → b4.toNat = (b0.toNat + b1.toNat + b2.toNat + b3.toNat) % 256 →
    s.env = [] → s.outstanding = none → s.rstate = .attempting → s.phase = .extract →
    s.readTrace = .ok (markedTrace lead low high gap
      (framePulses short long between (b0 ++ b1 ++ b2 ++ b3 ++ b4)) tail n) →
    ∃ t, runFor 3 s = .next t ∧ t.rstate = .succeeded ∧ t.phase = .idle ∧ t.status = .ok ∧ t.att = .ok ∧
      t.tries = s.tries ∧ t.portLog = s.portLog ∧ t.humidity.toInt = 10 * b0.toNat + b1.toNat ∧
      t.temperature.toInt =
        (if b3.getLsbD 7 then -(10 * (b2.toNat : Int) + b3.toNat % 128) else 10 * (b2.toNat : Int) + b3.toNat % 128)

/-- 45_retry R185, R176, R177, R184 (k = 0) and 41_sampler R126: a READ whose first capture carries a good frame ends Succeeded
with its values and TRIES = 0, having completed the handshake and one PIN_READ a sample and no
other command (`portLog`, log 6; two steps a command, log 5), if the capture fits in
TRACE_DEPTH samples; if it does not, the attempt fails with AcquisitionTimeout after TRACE_DEPTH polls. -/
def Obligations.ReadOfAGoodFirstCapture : Prop :=
  ∀ (s : State) (b0 b1 b2 b3 b4 : BitVec 8) (lead low high gap short long between : Nat) (tail : Level) (n : Nat)
    (levels rest : List Level) (data : HostWord),
    short < long → b4.toNat = (b0.toNat + b1.toNat + b2.toNat + b3.toNat) % 256 →
    levels = markedTrace lead low high gap (framePulses short long between (b0 ++ b1 ++ b2 ++ b3 ++ b4)) tail n →
    CompleteCapture levels →
    s.rstate ≠ .attempting → s.maxTries ≠ 0 → s.polling = false → s.outstanding = none →
    data.extractLsb' 0 8 = 0x01#8 → s.env = [.hostWrite 0 data] → s.line = levels ++ rest →
    if levels.length ≤ Config.traceDepth then
      ∃ t, runFor (1 + 14 + 2 * levels.length + 3) s = .next t ∧ t.rstate = .succeeded ∧ t.status = .ok ∧ t.tries = 0 ∧
        t.stateRegister = 0x0000001A ∧ t.line = rest ∧
        t.portLog = polls levels.length s.pin ++ handshake s.pin ++ s.portLog ∧
        t.humidity.toInt = 10 * b0.toNat + b1.toNat ∧
        t.temperature.toInt =
          (if b3.getLsbD 7 then -(10 * (b2.toNat : Int) + b3.toNat % 128) else 10 * (b2.toNat : Int) + b3.toNat % 128)
    else
      ∃ t, runFor (1 + 14 + 2 * Config.traceDepth + 1) s = .next t ∧ t.rstate = .attempting ∧ t.phase = .backoff ∧
        t.att = .acquisitionTimeout ∧ t.tries = 1 ∧ t.line = levels.drop Config.traceDepth ++ rest ∧
        t.portLog = polls Config.traceDepth s.pin ++ handshake s.pin ++ s.portLog

/-! ## The host interface -/

/-- 10_state R46: every field of STATE, which the HOST reads as register 5. -/
def Obligations.StateRegisterFields : Prop :=
  ∀ s : State,
    s.stateRegister.extractLsb' 0 2 = s.rstate.code ∧ s.stateRegister.getLsbD 2 = s.busy ∧
    s.stateRegister.getLsbD 3 = s.done ∧ s.stateRegister.getLsbD 4 = s.valid ∧ s.stateRegister.getLsbD 5 = s.raised ∧
    s.stateRegister.extractLsb' 6 2 = 0 ∧ s.stateRegister.extractLsb' 8 8 = s.tries ∧
    s.stateRegister.extractLsb' 16 16 = 0 ∧
    s.hostReadValue 5 = s.stateRegister

/-- 10_state R46 (its list of values): in a sound state STATE takes only these values. -/
def Obligations.StateRegisterTakesOnlyTheseValues : Prop :=
  ∀ s : State, Sound s →
    s.stateRegister =
      (match s.rstate with
        | .idle => 0
        | .attempting => BitVec.ofNat 32 (256 * s.tries.toNat + 0x05)
        | .succeeded => BitVec.ofNat 32 (256 * s.tries.toNat + 0x1A)
        | .failed => BitVec.ofNat 32 (256 * s.tries.toNat + (if s.raise then 0x23 else 0x0B)))

/-- 10_state R35: the definition of each flag; at most one of BUSY, DONE, RAISED is 1, all are 0 exactly when RSTATE = Idle, and
all four are 0 after reset. 60_exceptions R200: each status line is its flag. -/
def Obligations.FlagsFollowTheOutcome : Prop :=
  (∀ s : State,
    (s.busy = true ↔ s.rstate = .attempting) ∧
    (s.done = true ↔ s.rstate = .succeeded ∨ (s.rstate = .failed ∧ s.raise = false)) ∧
    (s.valid = true ↔ s.done = true ∧ s.status = .ok) ∧
    (s.raised = true ↔ s.rstate = .failed ∧ s.raise = true) ∧
    ¬ (s.busy = true ∧ s.done = true) ∧ ¬ (s.busy = true ∧ s.raised = true) ∧ ¬ (s.done = true ∧ s.raised = true) ∧
    ((s.busy = false ∧ s.done = false ∧ s.raised = false) ↔ s.rstate = .idle) ∧
    s.statusLines = { busy := s.busy, done := s.done, valid := s.valid, timeoutRaise := s.raised }) ∧
  State.reset.busy = false ∧ State.reset.done = false ∧ State.reset.valid = false ∧ State.reset.raised = false

/-- 45_retry R180: VALID is STATE[4], 1 exactly when a Reading exists and its status is Ok; in a sound state it is 1 if and only
if RSTATE = Succeeded. -/
def Obligations.ValidMeansSucceeded : Prop :=
  ∀ s : State, Sound s →
    s.stateRegister.getLsbD 4 = s.valid ∧ (s.valid = true ↔ s.done = true ∧ s.status = .ok) ∧
    (s.valid = true ↔ s.rstate = .succeeded)

/-- 20_memory R69 and 10_state R40 to R49: a host read, made at any time, only delivers its register's value: CMD reads 0, PIN,
MAX_TRIES, MIN_INTERVAL, POLICY and STATUS their field with the bits above 0, TEMPERATURE and HUMIDITY the value in tenths,
sign-extended. (STATE is StateRegisterFields; registers 9 to 15 are ReservedAndReadOnlyRegisters.) -/
def Obligations.HostReadHasNoSideEffect : Prop :=
  (∀ (s : State) (reg : RegNum) (rest : List EnvEvent), s.env = .hostRead reg :: rest →
    step s = .next { s with env := rest, rdata := s.hostReadValue reg }) ∧
  (∀ s : State,
    s.hostReadValue 0 = 0 ∧ (s.hostReadValue 1).toNat = s.pin.toNat ∧ (s.hostReadValue 2).toNat = s.maxTries.toNat ∧
    s.hostReadValue 3 = s.minInterval ∧ s.hostReadValue 4 = (if s.raise then 1 else 0) ∧
    s.hostReadValue 6 = (match s.status with | .ok => 0 | .checksumError => 1 | .timeoutError => 2) ∧
    (s.hostReadValue 7).toInt = s.temperature.toInt ∧ (s.hostReadValue 8).toInt = s.humidity.toInt)

/-- 10_state R42 to R45: a write to PIN, MAX_TRIES, MIN_INTERVAL or POLICY while BUSY = 0 is read back in the bits the register
has, the bits above reading 0, and changes nothing else. -/
def Obligations.ConfigurationWriteReadsBack : Prop :=
  ∀ (s : State) (data : HostWord) (rest : List EnvEvent) (reg : RegNum), s.rstate ≠ .attempting →
    reg ∈ [1#4, 2#4, 3#4, 4#4] → s.env = .hostWrite reg data :: rest →
    ∃ t, step s = .next t ∧
      t.hostReadValue reg = (if reg = 3#4 then data else if reg = 4#4 then data &&& 1 else data &&& 0xFF) ∧
      t = { s with
        env := rest,
        pin := if reg = 1#4 then t.pin else s.pin,
        maxTries := if reg = 2#4 then t.maxTries else s.maxTries,
        minInterval := if reg = 3#4 then t.minInterval else s.minInterval,
        raise := if reg = 4#4 then t.raise else s.raise }

/-- 10_state R51, 30_encoding R96 and U2: a write to CMD, PIN, MAX_TRIES, MIN_INTERVAL or POLICY while BUSY = 1 has no meaning; the
model refuses it (log 11). -/
def Obligations.HostWriteWhileBusyRefused : Prop :=
  ∀ (s : State) (reg : RegNum) (data : HostWord) (rest : List EnvEvent), s.rstate = .attempting → reg.toNat ≤ 4 →
    s.env = .hostWrite reg data :: rest → step s = .refused (.hostWriteWhileBusy reg)

/-- 10_state R50, 30_encoding R96: a write to a read-only or a reserved register is ignored, busy or not, and a read of a reserved
register delivers 0 and has no side effect. -/
def Obligations.ReservedAndReadOnlyRegisters : Prop :=
  (∀ (s : State) (reg : RegNum) (data : HostWord) (rest : List EnvEvent), 5 ≤ reg.toNat →
    s.env = .hostWrite reg data :: rest → step s = .next { s with env := rest }) ∧
  (∀ (s : State) (reg : RegNum) (rest : List EnvEvent), 9 ≤ reg.toNat →
    s.env = .hostRead reg :: rest → step s = .next { s with env := rest, rdata := 0 })

/-- 30_encoding R96 and 10_state R41: while BUSY = 0, CMD code 0x00 has no effect, and a reserved code 0x02 to 0xFF, which the
HOST is assumed never to write, is refused as the rule's model column and U3 say (log 12). -/
def Obligations.OtherCommandCodes : Prop :=
  ∀ (s : State) (data : HostWord) (rest : List EnvEvent), s.rstate ≠ .attempting → s.env = .hostWrite 0 data :: rest →
    (data.extractLsb' 0 8 = 0x00#8 → step s = .next { s with env := rest }) ∧
    (2 ≤ (data.extractLsb' 0 8).toNat → step s = .refused (.hostCommandReserved (data.extractLsb' 0 8)))

/-! ## Invariants and safety -/

/-- The model's memory form (log 9): every step keeps the trace buffer canonical, from any state that has it so. -/
def Obligations.StepKeepsTheTraceForm : Prop :=
  ∀ s t : State, s.trace.wf = true → step s = .next t → t.trace.wf = true

/-- 10_state R37: the reset state is sound. -/
def Obligations.ResetStateIsSound : Prop := Sound State.reset

/-- 10_state R22, R23, R26, R27, R29 to R31, R47; 45_retry R177, R180; U7: every step keeps a state sound. -/
def Obligations.StepKeepsStateSound : Prop :=
  ∀ s t : State, Sound s → step s = .next t → Sound t

/-- 20_memory R61, R62 and 93 (after U19), "Nothing in the block is treated as `fault` or `stuck`": no step from a sound state
ends in a fault. -/
def Obligations.SoundStatesNeverFault : Prop :=
  ∀ (s : State) (f : Fault), Sound s → step s ≠ .fault f

/-- 30_encoding R96, 10_state R51, U2 and U3: from a sound state the only refusals are those of a host write outside the
contract: to CMD or a configuration register while busy, or to CMD with a reserved code while not. -/
def Obligations.OnlyForbiddenHostWritesAreRefused : Prop :=
  ∀ (s : State) (r : Refusal), Sound s → step s = .refused r →
    ∃ reg data rest, s.env = .hostWrite reg data :: rest ∧
      ((s.rstate = .attempting ∧ reg.toNat ≤ 4 ∧ r = .hostWriteWhileBusy reg) ∨
        (s.rstate ≠ .attempting ∧ reg = 0 ∧ 2 ≤ (data.extractLsb' 0 8).toNat ∧
          r = .hostCommandReserved (data.extractLsb' 0 8)))

/-- 00_scope R5 (W_CNT) and 60_exceptions R204: in a sound state every count fits its W_CNT bits. -/
def Obligations.CountsFitTheirWidth : Prop :=
  ∀ s : State, Sound s →
    s.tlen < 2 ^ Config.wCnt ∧ s.run < 2 ^ Config.wCnt ∧ s.wmin < 2 ^ Config.wCnt ∧ s.wmax < 2 ^ Config.wCnt ∧
    ∀ w ∈ s.pw.toList, w < 2 ^ Config.wCnt

/-- 10_state R47, 90_conflicts C3 and U13: no step ever writes the status code ChecksumError. -/
def Obligations.ChecksumErrorNeverReported : Prop :=
  ∀ s t : State, s.status ≠ .checksumError → step s = .next t → t.status ≠ .checksumError

/-- 10_state R36, 70_reset R222: no behaviour depends on attempt-scoped values that are unspecified at reset and between
attempts. Two sound states that differ only in them step alike, and stay so. -/
def Obligations.StaleValuesNeverMatter : Prop :=
  ∀ s t : State, Sound s → Sound t → SameButStale s t →
    (∃ s' t', step s = .next s' ∧ step t = .next t' ∧ SameButStale s' t') ∨
    (∃ r, step s = .refused r ∧ step t = .refused r)
end

