-- ==== Sys2Proof/Laws/Codes.lean ====
section
/-! SUPPORT. Sys2Proof/Laws/Codes.lean: the fields of a port command word, and the codes. -/

namespace Sys2Proof

@[simp] theorem opOfWord_portWord (op : BitVec 8) (pin : Pin) (arg : BitVec 32) : opOfWord (portWord op pin arg) = op := by
  ext i hi
  simp only [opOfWord, portWord, BitVec.getElem_extractLsb', BitVec.getLsbD_append]
  rw [if_neg (by omega), if_neg (by omega)]
  rw [← BitVec.getLsbD_eq_getElem]
  congr 1
  omega

@[simp] theorem pinOfWord_portWord (op : BitVec 8) (pin : Pin) (arg : BitVec 32) : pinOfWord (portWord op pin arg) = pin := by
  ext i hi
  simp only [pinOfWord, portWord, BitVec.getElem_extractLsb', BitVec.getLsbD_append]
  rw [if_neg (by omega), if_pos (by omega)]
  rw [← BitVec.getLsbD_eq_getElem]
  congr 1
  omega

@[simp] theorem argOfWord_portWord (op : BitVec 8) (pin : Pin) (arg : BitVec 32) : argOfWord (portWord op pin arg) = arg := by
  ext i hi
  simp only [argOfWord, portWord, BitVec.getElem_extractLsb', BitVec.getLsbD_append]
  rw [if_pos (by omega)]
  simp [hi]

/-- A port command word is its three fields. -/
theorem portWord_fields (w : PortWord) : portWord (opOfWord w) (pinOfWord w) (argOfWord w) = w := by
  apply BitVec.eq_of_getLsbD_eq
  intro i hi
  simp only [opOfWord, pinOfWord, argOfWord, portWord, BitVec.getLsbD_append, BitVec.getLsbD_extractLsb']
  split
  · next h => simp [h]
  · split
    · next h1 h2 =>
      rw [decide_eq_true h2, Bool.true_and, show 32 + (i - 32) = i by omega]
    · next h1 h2 =>
      rw [decide_eq_true (show i - 32 - 8 < 8 by omega), Bool.true_and, show 40 + (i - 32 - 8) = i by omega]

@[simp] theorem levelOfArg_levelArg (l : Level) : levelOfArg (levelArg l) = some l := by cases l <;> decide

theorem levelArg_of_levelOfArg {a : BitVec 32} {l : Level} (h : levelOfArg a = some l) : levelArg l = a := by
  unfold levelOfArg at h
  split at h
  · next h0 => cases h; subst h0; decide
  · split at h
    · next h1 => cases h; subst h1; decide
    · cases h

namespace Machine

/-- Decoding PHASE's own code names the phase's operation, and IDLE none. -/
theorem decode_phase_code (p : Phase) :
    Sys2Proof.decode (.phase p.code) = match p with
      | .idle => .error .phaseIdle
      | .acqRequest => .ok .acqRequest
      | .acqPoll => .ok .acqPoll
      | .extract => .ok .extract
      | .decode => .ok .decode
      | .validate => .ok .validate
      | .backoff => .ok .backoff := by
  cases p <;> rfl

@[simp] theorem Phase.ofCode_code (p : Phase) : Phase.ofCode p.code = some p := by cases p <;> decide

end Machine

end Sys2Proof
end

