-- ==== Sys2Proof/Laws/Memory.lean ====
section
/-! SUPPORT. Sys2Proof/Laws/Memory.lean: reading after a write, and the canonical form of the trace buffer is kept. -/

namespace Sys2Proof.Machine

@[simp] theorem levelOfByte_levelByte (l : Level) : levelOfByte (levelByte l) = l := by cases l <;> decide

theorem levelByte_lt_two (l : Level) : (levelByte l).toNat < 2 := by cases l <;> decide

@[simp] theorem Memory.readByte_nil (a : Nat) : Memory.readByte [] a = none := rfl

/-- A read of the address just written gives the value written. -/
@[simp] theorem Memory.readByte_writeByte_same (m : Memory) (a : Nat) (v : BitVec 8) :
    (m.writeByte a v).readByte a = some v := by
  induction m with
  | nil => simp [Memory.writeByte, Memory.readByte]
  | cons c m ih =>
    obtain ⟨b, w⟩ := c
    rw [Memory.writeByte]
    split
    · simp [Memory.readByte]
    · split
      · simp [Memory.readByte]
      · next h => simp [Memory.readByte, h, ih]

/-- A write leaves every other address alone. -/
theorem Memory.readByte_writeByte_other (m : Memory) {a b : Nat} (v : BitVec 8) (h : b ≠ a) :
    (m.writeByte a v).readByte b = m.readByte b := by
  induction m with
  | nil => simp [Memory.writeByte, Memory.readByte, h]
  | cons c m ih =>
    obtain ⟨d, w⟩ := c
    rw [Memory.writeByte]
    split
    · simp [Memory.readByte, h]
    · split
      · next h' => subst h'; simp [Memory.readByte, h]
      · simp [Memory.readByte, ih]

@[simp] theorem Memory.readLevel_writeByte_same (m : Memory) (a : Nat) (l : Level) :
    (m.writeByte a (levelByte l)).readLevel a = some l := by
  simp [Memory.readLevel]

theorem Memory.readLevel_writeByte_other (m : Memory) {a b : Nat} (v : BitVec 8) (h : b ≠ a) :
    (m.writeByte a v).readLevel b = m.readLevel b := by
  simp [Memory.readLevel, Memory.readByte_writeByte_other m v h]

@[simp] theorem Memory.readLevel_isSome (m : Memory) (a : Nat) :
    (m.readLevel a).isSome = (m.readByte a).isSome := by
  simp [Memory.readLevel]

theorem Memory.wfAbove_writeByte (m : Memory) (a : Nat) (v : BitVec 8) (lo : Option Nat) (hv : v.toNat < 2)
    (hlo : ∀ l, lo = some l → l < a) (h : Memory.wfAbove lo m = true) :
    Memory.wfAbove lo (m.writeByte a v) = true := by
  induction m generalizing lo with
  | nil => cases lo <;> simp_all [Memory.writeByte, Memory.wfAbove]
  | cons c m ih =>
    obtain ⟨b, w⟩ := c
    simp only [Memory.wfAbove, Bool.and_eq_true] at h
    obtain ⟨⟨h1, h2⟩, h3⟩ := h
    rw [Memory.writeByte]
    split
    · next hab => cases lo <;> simp_all [Memory.wfAbove]
    · split
      · next hab =>
        subst hab
        cases lo <;> simp_all [Memory.wfAbove]
      · next hne hn =>
        have hba : b < a := by omega
        have := ih (some b) (by intro l hl; cases hl; exact hba) h3
        simp only [Memory.wfAbove, Bool.and_eq_true]
        exact ⟨⟨h1, h2⟩, this⟩

/-- A write of a Level keeps the canonical form. -/
theorem Memory.wf_writeByte (m : Memory) (a : Nat) (v : BitVec 8) (hv : v.toNat < 2) (h : m.wf = true) :
    (m.writeByte a v).wf = true :=
  Memory.wfAbove_writeByte m a v none hv (by simp) h

/-- The one memory operation of the machine keeps the canonical form. -/
theorem State.appendSample_wf (c : Level) (s : State) (h : s.trace.wf = true) : (s.appendSample c).trace.wf = true :=
  Memory.wf_writeByte _ _ _ (levelByte_lt_two c) h

theorem State.reset_trace_wf : State.reset.trace.wf = true := rfl

end Sys2Proof.Machine
end

