-- ==== Sys2Proof/Laws/State.lean ====
section
/-! SUPPORT. Sys2Proof/Laws/State.lean: one lemma per field per update of State, so that no later proof unfolds an update. -/

namespace Sys2Proof.Machine

variable (s : State)


/-! ### appendSample -/

@[simp] theorem State.appendSample_phase (c : Level) : (s.appendSample c).phase = s.phase := rfl
@[simp] theorem State.appendSample_stepNo (c : Level) : (s.appendSample c).stepNo = s.stepNo := rfl
@[simp] theorem State.appendSample_rstate (c : Level) : (s.appendSample c).rstate = s.rstate := rfl
@[simp] theorem State.appendSample_tries (c : Level) : (s.appendSample c).tries = s.tries := rfl
@[simp] theorem State.appendSample_att (c : Level) : (s.appendSample c).att = s.att := rfl
@[simp] theorem State.appendSample_lastv (c : Level) : (s.appendSample c).lastv = s.lastv := rfl
@[simp] theorem State.appendSample_last (c : Level) : (s.appendSample c).last = s.last := rfl
@[simp] theorem State.appendSample_unchanged (c : Level) : (s.appendSample c).unchanged = s.unchanged := rfl
@[simp] theorem State.appendSample_tlen (c : Level) : (s.appendSample c).tlen = s.tlen + 1 := rfl
@[simp] theorem State.appendSample_trace (c : Level) : (s.appendSample c).trace = s.trace.writeByte s.tlen (levelByte c) := rfl
@[simp] theorem State.appendSample_xs (c : Level) : (s.appendSample c).xs = s.xs := rfl
@[simp] theorem State.appendSample_run (c : Level) : (s.appendSample c).run = s.run := rfl
@[simp] theorem State.appendSample_pcount (c : Level) : (s.appendSample c).pcount = s.pcount := rfl
@[simp] theorem State.appendSample_pw (c : Level) : (s.appendSample c).pw = s.pw := rfl
@[simp] theorem State.appendSample_wmin (c : Level) : (s.appendSample c).wmin = s.wmin := rfl
@[simp] theorem State.appendSample_wmax (c : Level) : (s.appendSample c).wmax = s.wmax := rfl
@[simp] theorem State.appendSample_acc (c : Level) : (s.appendSample c).acc = s.acc := rfl
@[simp] theorem State.appendSample_sum (c : Level) : (s.appendSample c).sum = s.sum := rfl
@[simp] theorem State.appendSample_pin (c : Level) : (s.appendSample c).pin = s.pin := rfl
@[simp] theorem State.appendSample_maxTries (c : Level) : (s.appendSample c).maxTries = s.maxTries := rfl
@[simp] theorem State.appendSample_minInterval (c : Level) : (s.appendSample c).minInterval = s.minInterval := rfl
@[simp] theorem State.appendSample_raise (c : Level) : (s.appendSample c).raise = s.raise := rfl
@[simp] theorem State.appendSample_status (c : Level) : (s.appendSample c).status = s.status := rfl
@[simp] theorem State.appendSample_temperature (c : Level) : (s.appendSample c).temperature = s.temperature := rfl
@[simp] theorem State.appendSample_humidity (c : Level) : (s.appendSample c).humidity = s.humidity := rfl
@[simp] theorem State.appendSample_outstanding (c : Level) : (s.appendSample c).outstanding = s.outstanding := rfl
@[simp] theorem State.appendSample_polling (c : Level) : (s.appendSample c).polling = s.polling := rfl
@[simp] theorem State.appendSample_env (c : Level) : (s.appendSample c).env = s.env := rfl
@[simp] theorem State.appendSample_rdata (c : Level) : (s.appendSample c).rdata = s.rdata := rfl
@[simp] theorem State.appendSample_line (c : Level) : (s.appendSample c).line = s.line := rfl
@[simp] theorem State.appendSample_lineIdx (c : Level) : (s.appendSample c).lineIdx = s.lineIdx := rfl
@[simp] theorem State.appendSample_portLog (c : Level) : (s.appendSample c).portLog = s.portLog := rfl

/-! ### issue -/

@[simp] theorem State.issue_phase (w : PortWord) : (s.issue w).phase = s.phase := rfl
@[simp] theorem State.issue_stepNo (w : PortWord) : (s.issue w).stepNo = s.stepNo := rfl
@[simp] theorem State.issue_rstate (w : PortWord) : (s.issue w).rstate = s.rstate := rfl
@[simp] theorem State.issue_tries (w : PortWord) : (s.issue w).tries = s.tries := rfl
@[simp] theorem State.issue_att (w : PortWord) : (s.issue w).att = s.att := rfl
@[simp] theorem State.issue_lastv (w : PortWord) : (s.issue w).lastv = s.lastv := rfl
@[simp] theorem State.issue_last (w : PortWord) : (s.issue w).last = s.last := rfl
@[simp] theorem State.issue_unchanged (w : PortWord) : (s.issue w).unchanged = s.unchanged := rfl
@[simp] theorem State.issue_tlen (w : PortWord) : (s.issue w).tlen = s.tlen := rfl
@[simp] theorem State.issue_trace (w : PortWord) : (s.issue w).trace = s.trace := rfl
@[simp] theorem State.issue_xs (w : PortWord) : (s.issue w).xs = s.xs := rfl
@[simp] theorem State.issue_run (w : PortWord) : (s.issue w).run = s.run := rfl
@[simp] theorem State.issue_pcount (w : PortWord) : (s.issue w).pcount = s.pcount := rfl
@[simp] theorem State.issue_pw (w : PortWord) : (s.issue w).pw = s.pw := rfl
@[simp] theorem State.issue_wmin (w : PortWord) : (s.issue w).wmin = s.wmin := rfl
@[simp] theorem State.issue_wmax (w : PortWord) : (s.issue w).wmax = s.wmax := rfl
@[simp] theorem State.issue_acc (w : PortWord) : (s.issue w).acc = s.acc := rfl
@[simp] theorem State.issue_sum (w : PortWord) : (s.issue w).sum = s.sum := rfl
@[simp] theorem State.issue_pin (w : PortWord) : (s.issue w).pin = s.pin := rfl
@[simp] theorem State.issue_maxTries (w : PortWord) : (s.issue w).maxTries = s.maxTries := rfl
@[simp] theorem State.issue_minInterval (w : PortWord) : (s.issue w).minInterval = s.minInterval := rfl
@[simp] theorem State.issue_raise (w : PortWord) : (s.issue w).raise = s.raise := rfl
@[simp] theorem State.issue_status (w : PortWord) : (s.issue w).status = s.status := rfl
@[simp] theorem State.issue_temperature (w : PortWord) : (s.issue w).temperature = s.temperature := rfl
@[simp] theorem State.issue_humidity (w : PortWord) : (s.issue w).humidity = s.humidity := rfl
@[simp] theorem State.issue_outstanding (w : PortWord) : (s.issue w).outstanding = some w := rfl
@[simp] theorem State.issue_polling (w : PortWord) : (s.issue w).polling = s.polling := rfl
@[simp] theorem State.issue_env (w : PortWord) : (s.issue w).env = s.env := rfl
@[simp] theorem State.issue_rdata (w : PortWord) : (s.issue w).rdata = s.rdata := rfl
@[simp] theorem State.issue_line (w : PortWord) : (s.issue w).line = s.line := rfl
@[simp] theorem State.issue_lineIdx (w : PortWord) : (s.issue w).lineIdx = s.lineIdx := rfl
@[simp] theorem State.issue_portLog (w : PortWord) : (s.issue w).portLog = s.portLog := rfl

/-! ### completePort -/

@[simp] theorem State.completePort_phase (w : PortWord) : (s.completePort w).phase = s.phase := rfl
@[simp] theorem State.completePort_stepNo (w : PortWord) : (s.completePort w).stepNo = s.stepNo := rfl
@[simp] theorem State.completePort_rstate (w : PortWord) : (s.completePort w).rstate = s.rstate := rfl
@[simp] theorem State.completePort_tries (w : PortWord) : (s.completePort w).tries = s.tries := rfl
@[simp] theorem State.completePort_att (w : PortWord) : (s.completePort w).att = s.att := rfl
@[simp] theorem State.completePort_lastv (w : PortWord) : (s.completePort w).lastv = s.lastv := rfl
@[simp] theorem State.completePort_last (w : PortWord) : (s.completePort w).last = s.last := rfl
@[simp] theorem State.completePort_unchanged (w : PortWord) : (s.completePort w).unchanged = s.unchanged := rfl
@[simp] theorem State.completePort_tlen (w : PortWord) : (s.completePort w).tlen = s.tlen := rfl
@[simp] theorem State.completePort_trace (w : PortWord) : (s.completePort w).trace = s.trace := rfl
@[simp] theorem State.completePort_xs (w : PortWord) : (s.completePort w).xs = s.xs := rfl
@[simp] theorem State.completePort_run (w : PortWord) : (s.completePort w).run = s.run := rfl
@[simp] theorem State.completePort_pcount (w : PortWord) : (s.completePort w).pcount = s.pcount := rfl
@[simp] theorem State.completePort_pw (w : PortWord) : (s.completePort w).pw = s.pw := rfl
@[simp] theorem State.completePort_wmin (w : PortWord) : (s.completePort w).wmin = s.wmin := rfl
@[simp] theorem State.completePort_wmax (w : PortWord) : (s.completePort w).wmax = s.wmax := rfl
@[simp] theorem State.completePort_acc (w : PortWord) : (s.completePort w).acc = s.acc := rfl
@[simp] theorem State.completePort_sum (w : PortWord) : (s.completePort w).sum = s.sum := rfl
@[simp] theorem State.completePort_pin (w : PortWord) : (s.completePort w).pin = s.pin := rfl
@[simp] theorem State.completePort_maxTries (w : PortWord) : (s.completePort w).maxTries = s.maxTries := rfl
@[simp] theorem State.completePort_minInterval (w : PortWord) : (s.completePort w).minInterval = s.minInterval := rfl
@[simp] theorem State.completePort_raise (w : PortWord) : (s.completePort w).raise = s.raise := rfl
@[simp] theorem State.completePort_status (w : PortWord) : (s.completePort w).status = s.status := rfl
@[simp] theorem State.completePort_temperature (w : PortWord) : (s.completePort w).temperature = s.temperature := rfl
@[simp] theorem State.completePort_humidity (w : PortWord) : (s.completePort w).humidity = s.humidity := rfl
@[simp] theorem State.completePort_outstanding (w : PortWord) : (s.completePort w).outstanding = none := rfl
@[simp] theorem State.completePort_polling (w : PortWord) : (s.completePort w).polling = s.polling := rfl
@[simp] theorem State.completePort_env (w : PortWord) : (s.completePort w).env = s.env := rfl
@[simp] theorem State.completePort_rdata (w : PortWord) : (s.completePort w).rdata = s.rdata := rfl
@[simp] theorem State.completePort_line (w : PortWord) : (s.completePort w).line = s.line := rfl
@[simp] theorem State.completePort_lineIdx (w : PortWord) : (s.completePort w).lineIdx = s.lineIdx := rfl
@[simp] theorem State.completePort_portLog (w : PortWord) : (s.completePort w).portLog = .completed w :: s.portLog := rfl

/-! ### startCapture -/

@[simp] theorem State.startCapture_phase : s.startCapture.phase = s.phase := rfl
@[simp] theorem State.startCapture_stepNo : s.startCapture.stepNo = s.stepNo := rfl
@[simp] theorem State.startCapture_rstate : s.startCapture.rstate = s.rstate := rfl
@[simp] theorem State.startCapture_tries : s.startCapture.tries = s.tries := rfl
@[simp] theorem State.startCapture_att : s.startCapture.att = s.att := rfl
@[simp] theorem State.startCapture_lastv : s.startCapture.lastv = false := rfl
@[simp] theorem State.startCapture_last : s.startCapture.last = s.last := rfl
@[simp] theorem State.startCapture_unchanged : s.startCapture.unchanged = 0 := rfl
@[simp] theorem State.startCapture_tlen : s.startCapture.tlen = 0 := rfl
@[simp] theorem State.startCapture_trace : s.startCapture.trace = s.trace := rfl
@[simp] theorem State.startCapture_xs : s.startCapture.xs = s.xs := rfl
@[simp] theorem State.startCapture_run : s.startCapture.run = s.run := rfl
@[simp] theorem State.startCapture_pcount : s.startCapture.pcount = s.pcount := rfl
@[simp] theorem State.startCapture_pw : s.startCapture.pw = s.pw := rfl
@[simp] theorem State.startCapture_wmin : s.startCapture.wmin = s.wmin := rfl
@[simp] theorem State.startCapture_wmax : s.startCapture.wmax = s.wmax := rfl
@[simp] theorem State.startCapture_acc : s.startCapture.acc = s.acc := rfl
@[simp] theorem State.startCapture_sum : s.startCapture.sum = s.sum := rfl
@[simp] theorem State.startCapture_pin : s.startCapture.pin = s.pin := rfl
@[simp] theorem State.startCapture_maxTries : s.startCapture.maxTries = s.maxTries := rfl
@[simp] theorem State.startCapture_minInterval : s.startCapture.minInterval = s.minInterval := rfl
@[simp] theorem State.startCapture_raise : s.startCapture.raise = s.raise := rfl
@[simp] theorem State.startCapture_status : s.startCapture.status = s.status := rfl
@[simp] theorem State.startCapture_temperature : s.startCapture.temperature = s.temperature := rfl
@[simp] theorem State.startCapture_humidity : s.startCapture.humidity = s.humidity := rfl
@[simp] theorem State.startCapture_outstanding : s.startCapture.outstanding = s.outstanding := rfl
@[simp] theorem State.startCapture_polling : s.startCapture.polling = true := rfl
@[simp] theorem State.startCapture_env : s.startCapture.env = s.env := rfl
@[simp] theorem State.startCapture_rdata : s.startCapture.rdata = s.rdata := rfl
@[simp] theorem State.startCapture_line : s.startCapture.line = s.line := rfl
@[simp] theorem State.startCapture_lineIdx : s.startCapture.lineIdx = s.lineIdx := rfl
@[simp] theorem State.startCapture_portLog : s.startCapture.portLog = s.portLog := rfl

/-! ### markChange -/

@[simp] theorem State.markChange_phase (c : Level) : (s.markChange c).phase = s.phase := rfl
@[simp] theorem State.markChange_stepNo (c : Level) : (s.markChange c).stepNo = s.stepNo := rfl
@[simp] theorem State.markChange_rstate (c : Level) : (s.markChange c).rstate = s.rstate := rfl
@[simp] theorem State.markChange_tries (c : Level) : (s.markChange c).tries = s.tries := rfl
@[simp] theorem State.markChange_att (c : Level) : (s.markChange c).att = s.att := rfl
@[simp] theorem State.markChange_lastv (c : Level) : (s.markChange c).lastv = true := rfl
@[simp] theorem State.markChange_last (c : Level) : (s.markChange c).last = c := rfl
@[simp] theorem State.markChange_unchanged (c : Level) : (s.markChange c).unchanged = 0 := rfl
@[simp] theorem State.markChange_tlen (c : Level) : (s.markChange c).tlen = s.tlen := rfl
@[simp] theorem State.markChange_trace (c : Level) : (s.markChange c).trace = s.trace := rfl
@[simp] theorem State.markChange_xs (c : Level) : (s.markChange c).xs = s.xs := rfl
@[simp] theorem State.markChange_run (c : Level) : (s.markChange c).run = s.run := rfl
@[simp] theorem State.markChange_pcount (c : Level) : (s.markChange c).pcount = s.pcount := rfl
@[simp] theorem State.markChange_pw (c : Level) : (s.markChange c).pw = s.pw := rfl
@[simp] theorem State.markChange_wmin (c : Level) : (s.markChange c).wmin = s.wmin := rfl
@[simp] theorem State.markChange_wmax (c : Level) : (s.markChange c).wmax = s.wmax := rfl
@[simp] theorem State.markChange_acc (c : Level) : (s.markChange c).acc = s.acc := rfl
@[simp] theorem State.markChange_sum (c : Level) : (s.markChange c).sum = s.sum := rfl
@[simp] theorem State.markChange_pin (c : Level) : (s.markChange c).pin = s.pin := rfl
@[simp] theorem State.markChange_maxTries (c : Level) : (s.markChange c).maxTries = s.maxTries := rfl
@[simp] theorem State.markChange_minInterval (c : Level) : (s.markChange c).minInterval = s.minInterval := rfl
@[simp] theorem State.markChange_raise (c : Level) : (s.markChange c).raise = s.raise := rfl
@[simp] theorem State.markChange_status (c : Level) : (s.markChange c).status = s.status := rfl
@[simp] theorem State.markChange_temperature (c : Level) : (s.markChange c).temperature = s.temperature := rfl
@[simp] theorem State.markChange_humidity (c : Level) : (s.markChange c).humidity = s.humidity := rfl
@[simp] theorem State.markChange_outstanding (c : Level) : (s.markChange c).outstanding = s.outstanding := rfl
@[simp] theorem State.markChange_polling (c : Level) : (s.markChange c).polling = s.polling := rfl
@[simp] theorem State.markChange_env (c : Level) : (s.markChange c).env = s.env := rfl
@[simp] theorem State.markChange_rdata (c : Level) : (s.markChange c).rdata = s.rdata := rfl
@[simp] theorem State.markChange_line (c : Level) : (s.markChange c).line = s.line := rfl
@[simp] theorem State.markChange_lineIdx (c : Level) : (s.markChange c).lineIdx = s.lineIdx := rfl
@[simp] theorem State.markChange_portLog (c : Level) : (s.markChange c).portLog = s.portLog := rfl

/-! ### countUnchanged -/

@[simp] theorem State.countUnchanged_phase : s.countUnchanged.phase = s.phase := rfl
@[simp] theorem State.countUnchanged_stepNo : s.countUnchanged.stepNo = s.stepNo := rfl
@[simp] theorem State.countUnchanged_rstate : s.countUnchanged.rstate = s.rstate := rfl
@[simp] theorem State.countUnchanged_tries : s.countUnchanged.tries = s.tries := rfl
@[simp] theorem State.countUnchanged_att : s.countUnchanged.att = s.att := rfl
@[simp] theorem State.countUnchanged_lastv : s.countUnchanged.lastv = s.lastv := rfl
@[simp] theorem State.countUnchanged_last : s.countUnchanged.last = s.last := rfl
@[simp] theorem State.countUnchanged_unchanged : s.countUnchanged.unchanged = s.unchanged + 1 := rfl
@[simp] theorem State.countUnchanged_tlen : s.countUnchanged.tlen = s.tlen := rfl
@[simp] theorem State.countUnchanged_trace : s.countUnchanged.trace = s.trace := rfl
@[simp] theorem State.countUnchanged_xs : s.countUnchanged.xs = s.xs := rfl
@[simp] theorem State.countUnchanged_run : s.countUnchanged.run = s.run := rfl
@[simp] theorem State.countUnchanged_pcount : s.countUnchanged.pcount = s.pcount := rfl
@[simp] theorem State.countUnchanged_pw : s.countUnchanged.pw = s.pw := rfl
@[simp] theorem State.countUnchanged_wmin : s.countUnchanged.wmin = s.wmin := rfl
@[simp] theorem State.countUnchanged_wmax : s.countUnchanged.wmax = s.wmax := rfl
@[simp] theorem State.countUnchanged_acc : s.countUnchanged.acc = s.acc := rfl
@[simp] theorem State.countUnchanged_sum : s.countUnchanged.sum = s.sum := rfl
@[simp] theorem State.countUnchanged_pin : s.countUnchanged.pin = s.pin := rfl
@[simp] theorem State.countUnchanged_maxTries : s.countUnchanged.maxTries = s.maxTries := rfl
@[simp] theorem State.countUnchanged_minInterval : s.countUnchanged.minInterval = s.minInterval := rfl
@[simp] theorem State.countUnchanged_raise : s.countUnchanged.raise = s.raise := rfl
@[simp] theorem State.countUnchanged_status : s.countUnchanged.status = s.status := rfl
@[simp] theorem State.countUnchanged_temperature : s.countUnchanged.temperature = s.temperature := rfl
@[simp] theorem State.countUnchanged_humidity : s.countUnchanged.humidity = s.humidity := rfl
@[simp] theorem State.countUnchanged_outstanding : s.countUnchanged.outstanding = s.outstanding := rfl
@[simp] theorem State.countUnchanged_polling : s.countUnchanged.polling = s.polling := rfl
@[simp] theorem State.countUnchanged_env : s.countUnchanged.env = s.env := rfl
@[simp] theorem State.countUnchanged_rdata : s.countUnchanged.rdata = s.rdata := rfl
@[simp] theorem State.countUnchanged_line : s.countUnchanged.line = s.line := rfl
@[simp] theorem State.countUnchanged_lineIdx : s.countUnchanged.lineIdx = s.lineIdx := rfl
@[simp] theorem State.countUnchanged_portLog : s.countUnchanged.portLog = s.portLog := rfl

/-! ### endCapture -/

@[simp] theorem State.endCapture_phase : s.endCapture.phase = .extract := rfl
@[simp] theorem State.endCapture_stepNo : s.endCapture.stepNo = s.stepNo := rfl
@[simp] theorem State.endCapture_rstate : s.endCapture.rstate = s.rstate := rfl
@[simp] theorem State.endCapture_tries : s.endCapture.tries = s.tries := rfl
@[simp] theorem State.endCapture_att : s.endCapture.att = s.att := rfl
@[simp] theorem State.endCapture_lastv : s.endCapture.lastv = s.lastv := rfl
@[simp] theorem State.endCapture_last : s.endCapture.last = s.last := rfl
@[simp] theorem State.endCapture_unchanged : s.endCapture.unchanged = s.unchanged := rfl
@[simp] theorem State.endCapture_tlen : s.endCapture.tlen = s.tlen := rfl
@[simp] theorem State.endCapture_trace : s.endCapture.trace = s.trace := rfl
@[simp] theorem State.endCapture_xs : s.endCapture.xs = s.xs := rfl
@[simp] theorem State.endCapture_run : s.endCapture.run = s.run := rfl
@[simp] theorem State.endCapture_pcount : s.endCapture.pcount = s.pcount := rfl
@[simp] theorem State.endCapture_pw : s.endCapture.pw = s.pw := rfl
@[simp] theorem State.endCapture_wmin : s.endCapture.wmin = s.wmin := rfl
@[simp] theorem State.endCapture_wmax : s.endCapture.wmax = s.wmax := rfl
@[simp] theorem State.endCapture_acc : s.endCapture.acc = s.acc := rfl
@[simp] theorem State.endCapture_sum : s.endCapture.sum = s.sum := rfl
@[simp] theorem State.endCapture_pin : s.endCapture.pin = s.pin := rfl
@[simp] theorem State.endCapture_maxTries : s.endCapture.maxTries = s.maxTries := rfl
@[simp] theorem State.endCapture_minInterval : s.endCapture.minInterval = s.minInterval := rfl
@[simp] theorem State.endCapture_raise : s.endCapture.raise = s.raise := rfl
@[simp] theorem State.endCapture_status : s.endCapture.status = s.status := rfl
@[simp] theorem State.endCapture_temperature : s.endCapture.temperature = s.temperature := rfl
@[simp] theorem State.endCapture_humidity : s.endCapture.humidity = s.humidity := rfl
@[simp] theorem State.endCapture_outstanding : s.endCapture.outstanding = s.outstanding := rfl
@[simp] theorem State.endCapture_polling : s.endCapture.polling = false := rfl
@[simp] theorem State.endCapture_env : s.endCapture.env = s.env := rfl
@[simp] theorem State.endCapture_rdata : s.endCapture.rdata = s.rdata := rfl
@[simp] theorem State.endCapture_line : s.endCapture.line = s.line := rfl
@[simp] theorem State.endCapture_lineIdx : s.endCapture.lineIdx = s.lineIdx := rfl
@[simp] theorem State.endCapture_portLog : s.endCapture.portLog = s.portLog := rfl

/-! ### failAttempt -/

@[simp] theorem State.failAttempt_phase (cls : Attempt) : (s.failAttempt cls).phase = .backoff := rfl
@[simp] theorem State.failAttempt_stepNo (cls : Attempt) : (s.failAttempt cls).stepNo = s.stepNo := rfl
@[simp] theorem State.failAttempt_rstate (cls : Attempt) : (s.failAttempt cls).rstate = s.rstate := rfl
@[simp] theorem State.failAttempt_tries (cls : Attempt) : (s.failAttempt cls).tries = s.tries + 1 := rfl
@[simp] theorem State.failAttempt_att (cls : Attempt) : (s.failAttempt cls).att = cls := rfl
@[simp] theorem State.failAttempt_lastv (cls : Attempt) : (s.failAttempt cls).lastv = s.lastv := rfl
@[simp] theorem State.failAttempt_last (cls : Attempt) : (s.failAttempt cls).last = s.last := rfl
@[simp] theorem State.failAttempt_unchanged (cls : Attempt) : (s.failAttempt cls).unchanged = s.unchanged := rfl
@[simp] theorem State.failAttempt_tlen (cls : Attempt) : (s.failAttempt cls).tlen = s.tlen := rfl
@[simp] theorem State.failAttempt_trace (cls : Attempt) : (s.failAttempt cls).trace = s.trace := rfl
@[simp] theorem State.failAttempt_xs (cls : Attempt) : (s.failAttempt cls).xs = s.xs := rfl
@[simp] theorem State.failAttempt_run (cls : Attempt) : (s.failAttempt cls).run = s.run := rfl
@[simp] theorem State.failAttempt_pcount (cls : Attempt) : (s.failAttempt cls).pcount = s.pcount := rfl
@[simp] theorem State.failAttempt_pw (cls : Attempt) : (s.failAttempt cls).pw = s.pw := rfl
@[simp] theorem State.failAttempt_wmin (cls : Attempt) : (s.failAttempt cls).wmin = s.wmin := rfl
@[simp] theorem State.failAttempt_wmax (cls : Attempt) : (s.failAttempt cls).wmax = s.wmax := rfl
@[simp] theorem State.failAttempt_acc (cls : Attempt) : (s.failAttempt cls).acc = s.acc := rfl
@[simp] theorem State.failAttempt_sum (cls : Attempt) : (s.failAttempt cls).sum = s.sum := rfl
@[simp] theorem State.failAttempt_pin (cls : Attempt) : (s.failAttempt cls).pin = s.pin := rfl
@[simp] theorem State.failAttempt_maxTries (cls : Attempt) : (s.failAttempt cls).maxTries = s.maxTries := rfl
@[simp] theorem State.failAttempt_minInterval (cls : Attempt) : (s.failAttempt cls).minInterval = s.minInterval := rfl
@[simp] theorem State.failAttempt_raise (cls : Attempt) : (s.failAttempt cls).raise = s.raise := rfl
@[simp] theorem State.failAttempt_status (cls : Attempt) : (s.failAttempt cls).status = s.status := rfl
@[simp] theorem State.failAttempt_temperature (cls : Attempt) : (s.failAttempt cls).temperature = s.temperature := rfl
@[simp] theorem State.failAttempt_humidity (cls : Attempt) : (s.failAttempt cls).humidity = s.humidity := rfl
@[simp] theorem State.failAttempt_outstanding (cls : Attempt) : (s.failAttempt cls).outstanding = s.outstanding := rfl
@[simp] theorem State.failAttempt_polling (cls : Attempt) : (s.failAttempt cls).polling = false := rfl
@[simp] theorem State.failAttempt_env (cls : Attempt) : (s.failAttempt cls).env = s.env := rfl
@[simp] theorem State.failAttempt_rdata (cls : Attempt) : (s.failAttempt cls).rdata = s.rdata := rfl
@[simp] theorem State.failAttempt_line (cls : Attempt) : (s.failAttempt cls).line = s.line := rfl
@[simp] theorem State.failAttempt_lineIdx (cls : Attempt) : (s.failAttempt cls).lineIdx = s.lineIdx := rfl
@[simp] theorem State.failAttempt_portLog (cls : Attempt) : (s.failAttempt cls).portLog = s.portLog := rfl

/-! ### succeed -/

@[simp] theorem State.succeed_phase (temp hum : Tenths) : (s.succeed temp hum).phase = .idle := rfl
@[simp] theorem State.succeed_stepNo (temp hum : Tenths) : (s.succeed temp hum).stepNo = s.stepNo := rfl
@[simp] theorem State.succeed_rstate (temp hum : Tenths) : (s.succeed temp hum).rstate = .succeeded := rfl
@[simp] theorem State.succeed_tries (temp hum : Tenths) : (s.succeed temp hum).tries = s.tries := rfl
@[simp] theorem State.succeed_att (temp hum : Tenths) : (s.succeed temp hum).att = .ok := rfl
@[simp] theorem State.succeed_lastv (temp hum : Tenths) : (s.succeed temp hum).lastv = s.lastv := rfl
@[simp] theorem State.succeed_last (temp hum : Tenths) : (s.succeed temp hum).last = s.last := rfl
@[simp] theorem State.succeed_unchanged (temp hum : Tenths) : (s.succeed temp hum).unchanged = s.unchanged := rfl
@[simp] theorem State.succeed_tlen (temp hum : Tenths) : (s.succeed temp hum).tlen = s.tlen := rfl
@[simp] theorem State.succeed_trace (temp hum : Tenths) : (s.succeed temp hum).trace = s.trace := rfl
@[simp] theorem State.succeed_xs (temp hum : Tenths) : (s.succeed temp hum).xs = s.xs := rfl
@[simp] theorem State.succeed_run (temp hum : Tenths) : (s.succeed temp hum).run = s.run := rfl
@[simp] theorem State.succeed_pcount (temp hum : Tenths) : (s.succeed temp hum).pcount = s.pcount := rfl
@[simp] theorem State.succeed_pw (temp hum : Tenths) : (s.succeed temp hum).pw = s.pw := rfl
@[simp] theorem State.succeed_wmin (temp hum : Tenths) : (s.succeed temp hum).wmin = s.wmin := rfl
@[simp] theorem State.succeed_wmax (temp hum : Tenths) : (s.succeed temp hum).wmax = s.wmax := rfl
@[simp] theorem State.succeed_acc (temp hum : Tenths) : (s.succeed temp hum).acc = s.acc := rfl
@[simp] theorem State.succeed_sum (temp hum : Tenths) : (s.succeed temp hum).sum = s.sum := rfl
@[simp] theorem State.succeed_pin (temp hum : Tenths) : (s.succeed temp hum).pin = s.pin := rfl
@[simp] theorem State.succeed_maxTries (temp hum : Tenths) : (s.succeed temp hum).maxTries = s.maxTries := rfl
@[simp] theorem State.succeed_minInterval (temp hum : Tenths) : (s.succeed temp hum).minInterval = s.minInterval := rfl
@[simp] theorem State.succeed_raise (temp hum : Tenths) : (s.succeed temp hum).raise = s.raise := rfl
@[simp] theorem State.succeed_status (temp hum : Tenths) : (s.succeed temp hum).status = .ok := rfl
@[simp] theorem State.succeed_temperature (temp hum : Tenths) : (s.succeed temp hum).temperature = temp := rfl
@[simp] theorem State.succeed_humidity (temp hum : Tenths) : (s.succeed temp hum).humidity = hum := rfl
@[simp] theorem State.succeed_outstanding (temp hum : Tenths) : (s.succeed temp hum).outstanding = s.outstanding := rfl
@[simp] theorem State.succeed_polling (temp hum : Tenths) : (s.succeed temp hum).polling = s.polling := rfl
@[simp] theorem State.succeed_env (temp hum : Tenths) : (s.succeed temp hum).env = s.env := rfl
@[simp] theorem State.succeed_rdata (temp hum : Tenths) : (s.succeed temp hum).rdata = s.rdata := rfl
@[simp] theorem State.succeed_line (temp hum : Tenths) : (s.succeed temp hum).line = s.line := rfl
@[simp] theorem State.succeed_lineIdx (temp hum : Tenths) : (s.succeed temp hum).lineIdx = s.lineIdx := rfl
@[simp] theorem State.succeed_portLog (temp hum : Tenths) : (s.succeed temp hum).portLog = s.portLog := rfl

/-! ### exhaust -/

@[simp] theorem State.exhaust_phase : s.exhaust.phase = .idle := rfl
@[simp] theorem State.exhaust_stepNo : s.exhaust.stepNo = s.stepNo := rfl
@[simp] theorem State.exhaust_rstate : s.exhaust.rstate = .failed := rfl
@[simp] theorem State.exhaust_tries : s.exhaust.tries = s.tries := rfl
@[simp] theorem State.exhaust_att : s.exhaust.att = s.att := rfl
@[simp] theorem State.exhaust_lastv : s.exhaust.lastv = s.lastv := rfl
@[simp] theorem State.exhaust_last : s.exhaust.last = s.last := rfl
@[simp] theorem State.exhaust_unchanged : s.exhaust.unchanged = s.unchanged := rfl
@[simp] theorem State.exhaust_tlen : s.exhaust.tlen = s.tlen := rfl
@[simp] theorem State.exhaust_trace : s.exhaust.trace = s.trace := rfl
@[simp] theorem State.exhaust_xs : s.exhaust.xs = s.xs := rfl
@[simp] theorem State.exhaust_run : s.exhaust.run = s.run := rfl
@[simp] theorem State.exhaust_pcount : s.exhaust.pcount = s.pcount := rfl
@[simp] theorem State.exhaust_pw : s.exhaust.pw = s.pw := rfl
@[simp] theorem State.exhaust_wmin : s.exhaust.wmin = s.wmin := rfl
@[simp] theorem State.exhaust_wmax : s.exhaust.wmax = s.wmax := rfl
@[simp] theorem State.exhaust_acc : s.exhaust.acc = s.acc := rfl
@[simp] theorem State.exhaust_sum : s.exhaust.sum = s.sum := rfl
@[simp] theorem State.exhaust_pin : s.exhaust.pin = s.pin := rfl
@[simp] theorem State.exhaust_maxTries : s.exhaust.maxTries = s.maxTries := rfl
@[simp] theorem State.exhaust_minInterval : s.exhaust.minInterval = s.minInterval := rfl
@[simp] theorem State.exhaust_raise : s.exhaust.raise = s.raise := rfl
@[simp] theorem State.exhaust_status : s.exhaust.status = .timeoutError := rfl
@[simp] theorem State.exhaust_temperature : s.exhaust.temperature = s.temperature := rfl
@[simp] theorem State.exhaust_humidity : s.exhaust.humidity = s.humidity := rfl
@[simp] theorem State.exhaust_outstanding : s.exhaust.outstanding = s.outstanding := rfl
@[simp] theorem State.exhaust_polling : s.exhaust.polling = s.polling := rfl
@[simp] theorem State.exhaust_env : s.exhaust.env = s.env := rfl
@[simp] theorem State.exhaust_rdata : s.exhaust.rdata = s.rdata := rfl
@[simp] theorem State.exhaust_line : s.exhaust.line = s.line := rfl
@[simp] theorem State.exhaust_lineIdx : s.exhaust.lineIdx = s.lineIdx := rfl
@[simp] theorem State.exhaust_portLog : s.exhaust.portLog = s.portLog := rfl

/-! ### retry -/

@[simp] theorem State.retry_phase : s.retry.phase = .acqRequest := rfl
@[simp] theorem State.retry_stepNo : s.retry.stepNo = 0 := rfl
@[simp] theorem State.retry_rstate : s.retry.rstate = s.rstate := rfl
@[simp] theorem State.retry_tries : s.retry.tries = s.tries := rfl
@[simp] theorem State.retry_att : s.retry.att = s.att := rfl
@[simp] theorem State.retry_lastv : s.retry.lastv = s.lastv := rfl
@[simp] theorem State.retry_last : s.retry.last = s.last := rfl
@[simp] theorem State.retry_unchanged : s.retry.unchanged = s.unchanged := rfl
@[simp] theorem State.retry_tlen : s.retry.tlen = s.tlen := rfl
@[simp] theorem State.retry_trace : s.retry.trace = s.trace := rfl
@[simp] theorem State.retry_xs : s.retry.xs = s.xs := rfl
@[simp] theorem State.retry_run : s.retry.run = s.run := rfl
@[simp] theorem State.retry_pcount : s.retry.pcount = s.pcount := rfl
@[simp] theorem State.retry_pw : s.retry.pw = s.pw := rfl
@[simp] theorem State.retry_wmin : s.retry.wmin = s.wmin := rfl
@[simp] theorem State.retry_wmax : s.retry.wmax = s.wmax := rfl
@[simp] theorem State.retry_acc : s.retry.acc = s.acc := rfl
@[simp] theorem State.retry_sum : s.retry.sum = s.sum := rfl
@[simp] theorem State.retry_pin : s.retry.pin = s.pin := rfl
@[simp] theorem State.retry_maxTries : s.retry.maxTries = s.maxTries := rfl
@[simp] theorem State.retry_minInterval : s.retry.minInterval = s.minInterval := rfl
@[simp] theorem State.retry_raise : s.retry.raise = s.raise := rfl
@[simp] theorem State.retry_status : s.retry.status = s.status := rfl
@[simp] theorem State.retry_temperature : s.retry.temperature = s.temperature := rfl
@[simp] theorem State.retry_humidity : s.retry.humidity = s.humidity := rfl
@[simp] theorem State.retry_outstanding : s.retry.outstanding = s.outstanding := rfl
@[simp] theorem State.retry_polling : s.retry.polling = s.polling := rfl
@[simp] theorem State.retry_env : s.retry.env = s.env := rfl
@[simp] theorem State.retry_rdata : s.retry.rdata = s.rdata := rfl
@[simp] theorem State.retry_line : s.retry.line = s.line := rfl
@[simp] theorem State.retry_lineIdx : s.retry.lineIdx = s.lineIdx := rfl
@[simp] theorem State.retry_portLog : s.retry.portLog = s.portLog := rfl

/-! ### clearReading -/

@[simp] theorem State.clearReading_phase : s.clearReading.phase = s.phase := rfl
@[simp] theorem State.clearReading_stepNo : s.clearReading.stepNo = s.stepNo := rfl
@[simp] theorem State.clearReading_rstate : s.clearReading.rstate = s.rstate := rfl
@[simp] theorem State.clearReading_tries : s.clearReading.tries = 0 := rfl
@[simp] theorem State.clearReading_att : s.clearReading.att = s.att := rfl
@[simp] theorem State.clearReading_lastv : s.clearReading.lastv = s.lastv := rfl
@[simp] theorem State.clearReading_last : s.clearReading.last = s.last := rfl
@[simp] theorem State.clearReading_unchanged : s.clearReading.unchanged = s.unchanged := rfl
@[simp] theorem State.clearReading_tlen : s.clearReading.tlen = s.tlen := rfl
@[simp] theorem State.clearReading_trace : s.clearReading.trace = s.trace := rfl
@[simp] theorem State.clearReading_xs : s.clearReading.xs = s.xs := rfl
@[simp] theorem State.clearReading_run : s.clearReading.run = s.run := rfl
@[simp] theorem State.clearReading_pcount : s.clearReading.pcount = s.pcount := rfl
@[simp] theorem State.clearReading_pw : s.clearReading.pw = s.pw := rfl
@[simp] theorem State.clearReading_wmin : s.clearReading.wmin = s.wmin := rfl
@[simp] theorem State.clearReading_wmax : s.clearReading.wmax = s.wmax := rfl
@[simp] theorem State.clearReading_acc : s.clearReading.acc = s.acc := rfl
@[simp] theorem State.clearReading_sum : s.clearReading.sum = s.sum := rfl
@[simp] theorem State.clearReading_pin : s.clearReading.pin = s.pin := rfl
@[simp] theorem State.clearReading_maxTries : s.clearReading.maxTries = s.maxTries := rfl
@[simp] theorem State.clearReading_minInterval : s.clearReading.minInterval = s.minInterval := rfl
@[simp] theorem State.clearReading_raise : s.clearReading.raise = s.raise := rfl
@[simp] theorem State.clearReading_status : s.clearReading.status = .timeoutError := rfl
@[simp] theorem State.clearReading_temperature : s.clearReading.temperature = sentinelTenths := rfl
@[simp] theorem State.clearReading_humidity : s.clearReading.humidity = sentinelTenths := rfl
@[simp] theorem State.clearReading_outstanding : s.clearReading.outstanding = s.outstanding := rfl
@[simp] theorem State.clearReading_polling : s.clearReading.polling = s.polling := rfl
@[simp] theorem State.clearReading_env : s.clearReading.env = s.env := rfl
@[simp] theorem State.clearReading_rdata : s.clearReading.rdata = s.rdata := rfl
@[simp] theorem State.clearReading_line : s.clearReading.line = s.line := rfl
@[simp] theorem State.clearReading_lineIdx : s.clearReading.lineIdx = s.lineIdx := rfl
@[simp] theorem State.clearReading_portLog : s.clearReading.portLog = s.portLog := rfl

/-! ### startAttempting -/

@[simp] theorem State.startAttempting_phase : s.startAttempting.phase = .acqRequest := rfl
@[simp] theorem State.startAttempting_stepNo : s.startAttempting.stepNo = 0 := rfl
@[simp] theorem State.startAttempting_rstate : s.startAttempting.rstate = .attempting := rfl
@[simp] theorem State.startAttempting_tries : s.startAttempting.tries = s.tries := rfl
@[simp] theorem State.startAttempting_att : s.startAttempting.att = s.att := rfl
@[simp] theorem State.startAttempting_lastv : s.startAttempting.lastv = s.lastv := rfl
@[simp] theorem State.startAttempting_last : s.startAttempting.last = s.last := rfl
@[simp] theorem State.startAttempting_unchanged : s.startAttempting.unchanged = s.unchanged := rfl
@[simp] theorem State.startAttempting_tlen : s.startAttempting.tlen = s.tlen := rfl
@[simp] theorem State.startAttempting_trace : s.startAttempting.trace = s.trace := rfl
@[simp] theorem State.startAttempting_xs : s.startAttempting.xs = s.xs := rfl
@[simp] theorem State.startAttempting_run : s.startAttempting.run = s.run := rfl
@[simp] theorem State.startAttempting_pcount : s.startAttempting.pcount = s.pcount := rfl
@[simp] theorem State.startAttempting_pw : s.startAttempting.pw = s.pw := rfl
@[simp] theorem State.startAttempting_wmin : s.startAttempting.wmin = s.wmin := rfl
@[simp] theorem State.startAttempting_wmax : s.startAttempting.wmax = s.wmax := rfl
@[simp] theorem State.startAttempting_acc : s.startAttempting.acc = s.acc := rfl
@[simp] theorem State.startAttempting_sum : s.startAttempting.sum = s.sum := rfl
@[simp] theorem State.startAttempting_pin : s.startAttempting.pin = s.pin := rfl
@[simp] theorem State.startAttempting_maxTries : s.startAttempting.maxTries = s.maxTries := rfl
@[simp] theorem State.startAttempting_minInterval : s.startAttempting.minInterval = s.minInterval := rfl
@[simp] theorem State.startAttempting_raise : s.startAttempting.raise = s.raise := rfl
@[simp] theorem State.startAttempting_status : s.startAttempting.status = s.status := rfl
@[simp] theorem State.startAttempting_temperature : s.startAttempting.temperature = s.temperature := rfl
@[simp] theorem State.startAttempting_humidity : s.startAttempting.humidity = s.humidity := rfl
@[simp] theorem State.startAttempting_outstanding : s.startAttempting.outstanding = s.outstanding := rfl
@[simp] theorem State.startAttempting_polling : s.startAttempting.polling = s.polling := rfl
@[simp] theorem State.startAttempting_env : s.startAttempting.env = s.env := rfl
@[simp] theorem State.startAttempting_rdata : s.startAttempting.rdata = s.rdata := rfl
@[simp] theorem State.startAttempting_line : s.startAttempting.line = s.line := rfl
@[simp] theorem State.startAttempting_lineIdx : s.startAttempting.lineIdx = s.lineIdx := rfl
@[simp] theorem State.startAttempting_portLog : s.startAttempting.portLog = s.portLog := rfl

/-! ### failAtOnce -/

@[simp] theorem State.failAtOnce_phase : s.failAtOnce.phase = s.phase := rfl
@[simp] theorem State.failAtOnce_stepNo : s.failAtOnce.stepNo = s.stepNo := rfl
@[simp] theorem State.failAtOnce_rstate : s.failAtOnce.rstate = .failed := rfl
@[simp] theorem State.failAtOnce_tries : s.failAtOnce.tries = s.tries := rfl
@[simp] theorem State.failAtOnce_att : s.failAtOnce.att = s.att := rfl
@[simp] theorem State.failAtOnce_lastv : s.failAtOnce.lastv = s.lastv := rfl
@[simp] theorem State.failAtOnce_last : s.failAtOnce.last = s.last := rfl
@[simp] theorem State.failAtOnce_unchanged : s.failAtOnce.unchanged = s.unchanged := rfl
@[simp] theorem State.failAtOnce_tlen : s.failAtOnce.tlen = s.tlen := rfl
@[simp] theorem State.failAtOnce_trace : s.failAtOnce.trace = s.trace := rfl
@[simp] theorem State.failAtOnce_xs : s.failAtOnce.xs = s.xs := rfl
@[simp] theorem State.failAtOnce_run : s.failAtOnce.run = s.run := rfl
@[simp] theorem State.failAtOnce_pcount : s.failAtOnce.pcount = s.pcount := rfl
@[simp] theorem State.failAtOnce_pw : s.failAtOnce.pw = s.pw := rfl
@[simp] theorem State.failAtOnce_wmin : s.failAtOnce.wmin = s.wmin := rfl
@[simp] theorem State.failAtOnce_wmax : s.failAtOnce.wmax = s.wmax := rfl
@[simp] theorem State.failAtOnce_acc : s.failAtOnce.acc = s.acc := rfl
@[simp] theorem State.failAtOnce_sum : s.failAtOnce.sum = s.sum := rfl
@[simp] theorem State.failAtOnce_pin : s.failAtOnce.pin = s.pin := rfl
@[simp] theorem State.failAtOnce_maxTries : s.failAtOnce.maxTries = s.maxTries := rfl
@[simp] theorem State.failAtOnce_minInterval : s.failAtOnce.minInterval = s.minInterval := rfl
@[simp] theorem State.failAtOnce_raise : s.failAtOnce.raise = s.raise := rfl
@[simp] theorem State.failAtOnce_status : s.failAtOnce.status = s.status := rfl
@[simp] theorem State.failAtOnce_temperature : s.failAtOnce.temperature = s.temperature := rfl
@[simp] theorem State.failAtOnce_humidity : s.failAtOnce.humidity = s.humidity := rfl
@[simp] theorem State.failAtOnce_outstanding : s.failAtOnce.outstanding = s.outstanding := rfl
@[simp] theorem State.failAtOnce_polling : s.failAtOnce.polling = s.polling := rfl
@[simp] theorem State.failAtOnce_env : s.failAtOnce.env = s.env := rfl
@[simp] theorem State.failAtOnce_rdata : s.failAtOnce.rdata = s.rdata := rfl
@[simp] theorem State.failAtOnce_line : s.failAtOnce.line = s.line := rfl
@[simp] theorem State.failAtOnce_lineIdx : s.failAtOnce.lineIdx = s.lineIdx := rfl
@[simp] theorem State.failAtOnce_portLog : s.failAtOnce.portLog = s.portLog := rfl

/-! ### nextStep -/

@[simp] theorem State.nextStep_phase : s.nextStep.phase = s.phase := rfl
@[simp] theorem State.nextStep_stepNo : s.nextStep.stepNo = s.stepNo + 1 := rfl
@[simp] theorem State.nextStep_rstate : s.nextStep.rstate = s.rstate := rfl
@[simp] theorem State.nextStep_tries : s.nextStep.tries = s.tries := rfl
@[simp] theorem State.nextStep_att : s.nextStep.att = s.att := rfl
@[simp] theorem State.nextStep_lastv : s.nextStep.lastv = s.lastv := rfl
@[simp] theorem State.nextStep_last : s.nextStep.last = s.last := rfl
@[simp] theorem State.nextStep_unchanged : s.nextStep.unchanged = s.unchanged := rfl
@[simp] theorem State.nextStep_tlen : s.nextStep.tlen = s.tlen := rfl
@[simp] theorem State.nextStep_trace : s.nextStep.trace = s.trace := rfl
@[simp] theorem State.nextStep_xs : s.nextStep.xs = s.xs := rfl
@[simp] theorem State.nextStep_run : s.nextStep.run = s.run := rfl
@[simp] theorem State.nextStep_pcount : s.nextStep.pcount = s.pcount := rfl
@[simp] theorem State.nextStep_pw : s.nextStep.pw = s.pw := rfl
@[simp] theorem State.nextStep_wmin : s.nextStep.wmin = s.wmin := rfl
@[simp] theorem State.nextStep_wmax : s.nextStep.wmax = s.wmax := rfl
@[simp] theorem State.nextStep_acc : s.nextStep.acc = s.acc := rfl
@[simp] theorem State.nextStep_sum : s.nextStep.sum = s.sum := rfl
@[simp] theorem State.nextStep_pin : s.nextStep.pin = s.pin := rfl
@[simp] theorem State.nextStep_maxTries : s.nextStep.maxTries = s.maxTries := rfl
@[simp] theorem State.nextStep_minInterval : s.nextStep.minInterval = s.minInterval := rfl
@[simp] theorem State.nextStep_raise : s.nextStep.raise = s.raise := rfl
@[simp] theorem State.nextStep_status : s.nextStep.status = s.status := rfl
@[simp] theorem State.nextStep_temperature : s.nextStep.temperature = s.temperature := rfl
@[simp] theorem State.nextStep_humidity : s.nextStep.humidity = s.humidity := rfl
@[simp] theorem State.nextStep_outstanding : s.nextStep.outstanding = s.outstanding := rfl
@[simp] theorem State.nextStep_polling : s.nextStep.polling = s.polling := rfl
@[simp] theorem State.nextStep_env : s.nextStep.env = s.env := rfl
@[simp] theorem State.nextStep_rdata : s.nextStep.rdata = s.rdata := rfl
@[simp] theorem State.nextStep_line : s.nextStep.line = s.line := rfl
@[simp] theorem State.nextStep_lineIdx : s.nextStep.lineIdx = s.lineIdx := rfl
@[simp] theorem State.nextStep_portLog : s.nextStep.portLog = s.portLog := rfl

/-! ### enterPoll -/

@[simp] theorem State.enterPoll_phase : s.enterPoll.phase = .acqPoll := rfl
@[simp] theorem State.enterPoll_stepNo : s.enterPoll.stepNo = 0 := rfl
@[simp] theorem State.enterPoll_rstate : s.enterPoll.rstate = s.rstate := rfl
@[simp] theorem State.enterPoll_tries : s.enterPoll.tries = s.tries := rfl
@[simp] theorem State.enterPoll_att : s.enterPoll.att = s.att := rfl
@[simp] theorem State.enterPoll_lastv : s.enterPoll.lastv = s.lastv := rfl
@[simp] theorem State.enterPoll_last : s.enterPoll.last = s.last := rfl
@[simp] theorem State.enterPoll_unchanged : s.enterPoll.unchanged = s.unchanged := rfl
@[simp] theorem State.enterPoll_tlen : s.enterPoll.tlen = s.tlen := rfl
@[simp] theorem State.enterPoll_trace : s.enterPoll.trace = s.trace := rfl
@[simp] theorem State.enterPoll_xs : s.enterPoll.xs = s.xs := rfl
@[simp] theorem State.enterPoll_run : s.enterPoll.run = s.run := rfl
@[simp] theorem State.enterPoll_pcount : s.enterPoll.pcount = s.pcount := rfl
@[simp] theorem State.enterPoll_pw : s.enterPoll.pw = s.pw := rfl
@[simp] theorem State.enterPoll_wmin : s.enterPoll.wmin = s.wmin := rfl
@[simp] theorem State.enterPoll_wmax : s.enterPoll.wmax = s.wmax := rfl
@[simp] theorem State.enterPoll_acc : s.enterPoll.acc = s.acc := rfl
@[simp] theorem State.enterPoll_sum : s.enterPoll.sum = s.sum := rfl
@[simp] theorem State.enterPoll_pin : s.enterPoll.pin = s.pin := rfl
@[simp] theorem State.enterPoll_maxTries : s.enterPoll.maxTries = s.maxTries := rfl
@[simp] theorem State.enterPoll_minInterval : s.enterPoll.minInterval = s.minInterval := rfl
@[simp] theorem State.enterPoll_raise : s.enterPoll.raise = s.raise := rfl
@[simp] theorem State.enterPoll_status : s.enterPoll.status = s.status := rfl
@[simp] theorem State.enterPoll_temperature : s.enterPoll.temperature = s.temperature := rfl
@[simp] theorem State.enterPoll_humidity : s.enterPoll.humidity = s.humidity := rfl
@[simp] theorem State.enterPoll_outstanding : s.enterPoll.outstanding = s.outstanding := rfl
@[simp] theorem State.enterPoll_polling : s.enterPoll.polling = s.polling := rfl
@[simp] theorem State.enterPoll_env : s.enterPoll.env = s.env := rfl
@[simp] theorem State.enterPoll_rdata : s.enterPoll.rdata = s.rdata := rfl
@[simp] theorem State.enterPoll_line : s.enterPoll.line = s.line := rfl
@[simp] theorem State.enterPoll_lineIdx : s.enterPoll.lineIdx = s.lineIdx := rfl
@[simp] theorem State.enterPoll_portLog : s.enterPoll.portLog = s.portLog := rfl

/-! ### storeScan -/

@[simp] theorem State.storeScan_phase (r : Scan) : (s.storeScan r).phase = s.phase := rfl
@[simp] theorem State.storeScan_stepNo (r : Scan) : (s.storeScan r).stepNo = s.stepNo := rfl
@[simp] theorem State.storeScan_rstate (r : Scan) : (s.storeScan r).rstate = s.rstate := rfl
@[simp] theorem State.storeScan_tries (r : Scan) : (s.storeScan r).tries = s.tries := rfl
@[simp] theorem State.storeScan_att (r : Scan) : (s.storeScan r).att = s.att := rfl
@[simp] theorem State.storeScan_lastv (r : Scan) : (s.storeScan r).lastv = s.lastv := rfl
@[simp] theorem State.storeScan_last (r : Scan) : (s.storeScan r).last = s.last := rfl
@[simp] theorem State.storeScan_unchanged (r : Scan) : (s.storeScan r).unchanged = s.unchanged := rfl
@[simp] theorem State.storeScan_tlen (r : Scan) : (s.storeScan r).tlen = s.tlen := rfl
@[simp] theorem State.storeScan_trace (r : Scan) : (s.storeScan r).trace = s.trace := rfl
@[simp] theorem State.storeScan_xs (r : Scan) : (s.storeScan r).xs = r.xs := rfl
@[simp] theorem State.storeScan_run (r : Scan) : (s.storeScan r).run = r.run := rfl
@[simp] theorem State.storeScan_pcount (r : Scan) : (s.storeScan r).pcount = r.pcount := rfl
@[simp] theorem State.storeScan_pw (r : Scan) : (s.storeScan r).pw = r.pw := rfl
@[simp] theorem State.storeScan_wmin (r : Scan) : (s.storeScan r).wmin = s.wmin := rfl
@[simp] theorem State.storeScan_wmax (r : Scan) : (s.storeScan r).wmax = s.wmax := rfl
@[simp] theorem State.storeScan_acc (r : Scan) : (s.storeScan r).acc = s.acc := rfl
@[simp] theorem State.storeScan_sum (r : Scan) : (s.storeScan r).sum = s.sum := rfl
@[simp] theorem State.storeScan_pin (r : Scan) : (s.storeScan r).pin = s.pin := rfl
@[simp] theorem State.storeScan_maxTries (r : Scan) : (s.storeScan r).maxTries = s.maxTries := rfl
@[simp] theorem State.storeScan_minInterval (r : Scan) : (s.storeScan r).minInterval = s.minInterval := rfl
@[simp] theorem State.storeScan_raise (r : Scan) : (s.storeScan r).raise = s.raise := rfl
@[simp] theorem State.storeScan_status (r : Scan) : (s.storeScan r).status = s.status := rfl
@[simp] theorem State.storeScan_temperature (r : Scan) : (s.storeScan r).temperature = s.temperature := rfl
@[simp] theorem State.storeScan_humidity (r : Scan) : (s.storeScan r).humidity = s.humidity := rfl
@[simp] theorem State.storeScan_outstanding (r : Scan) : (s.storeScan r).outstanding = s.outstanding := rfl
@[simp] theorem State.storeScan_polling (r : Scan) : (s.storeScan r).polling = s.polling := rfl
@[simp] theorem State.storeScan_env (r : Scan) : (s.storeScan r).env = s.env := rfl
@[simp] theorem State.storeScan_rdata (r : Scan) : (s.storeScan r).rdata = s.rdata := rfl
@[simp] theorem State.storeScan_line (r : Scan) : (s.storeScan r).line = s.line := rfl
@[simp] theorem State.storeScan_lineIdx (r : Scan) : (s.storeScan r).lineIdx = s.lineIdx := rfl
@[simp] theorem State.storeScan_portLog (r : Scan) : (s.storeScan r).portLog = s.portLog := rfl

/-! ### enterDecode -/

@[simp] theorem State.enterDecode_phase : s.enterDecode.phase = .decode := rfl
@[simp] theorem State.enterDecode_stepNo : s.enterDecode.stepNo = s.stepNo := rfl
@[simp] theorem State.enterDecode_rstate : s.enterDecode.rstate = s.rstate := rfl
@[simp] theorem State.enterDecode_tries : s.enterDecode.tries = s.tries := rfl
@[simp] theorem State.enterDecode_att : s.enterDecode.att = s.att := rfl
@[simp] theorem State.enterDecode_lastv : s.enterDecode.lastv = s.lastv := rfl
@[simp] theorem State.enterDecode_last : s.enterDecode.last = s.last := rfl
@[simp] theorem State.enterDecode_unchanged : s.enterDecode.unchanged = s.unchanged := rfl
@[simp] theorem State.enterDecode_tlen : s.enterDecode.tlen = s.tlen := rfl
@[simp] theorem State.enterDecode_trace : s.enterDecode.trace = s.trace := rfl
@[simp] theorem State.enterDecode_xs : s.enterDecode.xs = s.xs := rfl
@[simp] theorem State.enterDecode_run : s.enterDecode.run = s.run := rfl
@[simp] theorem State.enterDecode_pcount : s.enterDecode.pcount = s.pcount := rfl
@[simp] theorem State.enterDecode_pw : s.enterDecode.pw = s.pw := rfl
@[simp] theorem State.enterDecode_wmin : s.enterDecode.wmin = s.wmin := rfl
@[simp] theorem State.enterDecode_wmax : s.enterDecode.wmax = s.wmax := rfl
@[simp] theorem State.enterDecode_acc : s.enterDecode.acc = s.acc := rfl
@[simp] theorem State.enterDecode_sum : s.enterDecode.sum = s.sum := rfl
@[simp] theorem State.enterDecode_pin : s.enterDecode.pin = s.pin := rfl
@[simp] theorem State.enterDecode_maxTries : s.enterDecode.maxTries = s.maxTries := rfl
@[simp] theorem State.enterDecode_minInterval : s.enterDecode.minInterval = s.minInterval := rfl
@[simp] theorem State.enterDecode_raise : s.enterDecode.raise = s.raise := rfl
@[simp] theorem State.enterDecode_status : s.enterDecode.status = s.status := rfl
@[simp] theorem State.enterDecode_temperature : s.enterDecode.temperature = s.temperature := rfl
@[simp] theorem State.enterDecode_humidity : s.enterDecode.humidity = s.humidity := rfl
@[simp] theorem State.enterDecode_outstanding : s.enterDecode.outstanding = s.outstanding := rfl
@[simp] theorem State.enterDecode_polling : s.enterDecode.polling = s.polling := rfl
@[simp] theorem State.enterDecode_env : s.enterDecode.env = s.env := rfl
@[simp] theorem State.enterDecode_rdata : s.enterDecode.rdata = s.rdata := rfl
@[simp] theorem State.enterDecode_line : s.enterDecode.line = s.line := rfl
@[simp] theorem State.enterDecode_lineIdx : s.enterDecode.lineIdx = s.lineIdx := rfl
@[simp] theorem State.enterDecode_portLog : s.enterDecode.portLog = s.portLog := rfl

/-! ### storeDecoded -/

@[simp] theorem State.storeDecoded_phase : s.storeDecoded.phase = .validate := rfl
@[simp] theorem State.storeDecoded_stepNo : s.storeDecoded.stepNo = s.stepNo := rfl
@[simp] theorem State.storeDecoded_rstate : s.storeDecoded.rstate = s.rstate := rfl
@[simp] theorem State.storeDecoded_tries : s.storeDecoded.tries = s.tries := rfl
@[simp] theorem State.storeDecoded_att : s.storeDecoded.att = s.att := rfl
@[simp] theorem State.storeDecoded_lastv : s.storeDecoded.lastv = s.lastv := rfl
@[simp] theorem State.storeDecoded_last : s.storeDecoded.last = s.last := rfl
@[simp] theorem State.storeDecoded_unchanged : s.storeDecoded.unchanged = s.unchanged := rfl
@[simp] theorem State.storeDecoded_tlen : s.storeDecoded.tlen = s.tlen := rfl
@[simp] theorem State.storeDecoded_trace : s.storeDecoded.trace = s.trace := rfl
@[simp] theorem State.storeDecoded_xs : s.storeDecoded.xs = s.xs := rfl
@[simp] theorem State.storeDecoded_run : s.storeDecoded.run = s.run := rfl
@[simp] theorem State.storeDecoded_pcount : s.storeDecoded.pcount = s.pcount := rfl
@[simp] theorem State.storeDecoded_pw : s.storeDecoded.pw = s.pw := rfl
@[simp] theorem State.storeDecoded_wmin : s.storeDecoded.wmin = leastWidth s.pw.toList := rfl
@[simp] theorem State.storeDecoded_wmax : s.storeDecoded.wmax = greatestWidth s.pw.toList := rfl
@[simp] theorem State.storeDecoded_acc : s.storeDecoded.acc = accumulate (leastWidth s.pw.toList) (greatestWidth s.pw.toList) s.pw.toList := rfl
@[simp] theorem State.storeDecoded_sum : s.storeDecoded.sum = s.sum := rfl
@[simp] theorem State.storeDecoded_pin : s.storeDecoded.pin = s.pin := rfl
@[simp] theorem State.storeDecoded_maxTries : s.storeDecoded.maxTries = s.maxTries := rfl
@[simp] theorem State.storeDecoded_minInterval : s.storeDecoded.minInterval = s.minInterval := rfl
@[simp] theorem State.storeDecoded_raise : s.storeDecoded.raise = s.raise := rfl
@[simp] theorem State.storeDecoded_status : s.storeDecoded.status = s.status := rfl
@[simp] theorem State.storeDecoded_temperature : s.storeDecoded.temperature = s.temperature := rfl
@[simp] theorem State.storeDecoded_humidity : s.storeDecoded.humidity = s.humidity := rfl
@[simp] theorem State.storeDecoded_outstanding : s.storeDecoded.outstanding = s.outstanding := rfl
@[simp] theorem State.storeDecoded_polling : s.storeDecoded.polling = s.polling := rfl
@[simp] theorem State.storeDecoded_env : s.storeDecoded.env = s.env := rfl
@[simp] theorem State.storeDecoded_rdata : s.storeDecoded.rdata = s.rdata := rfl
@[simp] theorem State.storeDecoded_line : s.storeDecoded.line = s.line := rfl
@[simp] theorem State.storeDecoded_lineIdx : s.storeDecoded.lineIdx = s.lineIdx := rfl
@[simp] theorem State.storeDecoded_portLog : s.storeDecoded.portLog = s.portLog := rfl

/-! ### storeSum -/

@[simp] theorem State.storeSum_phase : s.storeSum.phase = s.phase := rfl
@[simp] theorem State.storeSum_stepNo : s.storeSum.stepNo = s.stepNo := rfl
@[simp] theorem State.storeSum_rstate : s.storeSum.rstate = s.rstate := rfl
@[simp] theorem State.storeSum_tries : s.storeSum.tries = s.tries := rfl
@[simp] theorem State.storeSum_att : s.storeSum.att = s.att := rfl
@[simp] theorem State.storeSum_lastv : s.storeSum.lastv = s.lastv := rfl
@[simp] theorem State.storeSum_last : s.storeSum.last = s.last := rfl
@[simp] theorem State.storeSum_unchanged : s.storeSum.unchanged = s.unchanged := rfl
@[simp] theorem State.storeSum_tlen : s.storeSum.tlen = s.tlen := rfl
@[simp] theorem State.storeSum_trace : s.storeSum.trace = s.trace := rfl
@[simp] theorem State.storeSum_xs : s.storeSum.xs = s.xs := rfl
@[simp] theorem State.storeSum_run : s.storeSum.run = s.run := rfl
@[simp] theorem State.storeSum_pcount : s.storeSum.pcount = s.pcount := rfl
@[simp] theorem State.storeSum_pw : s.storeSum.pw = s.pw := rfl
@[simp] theorem State.storeSum_wmin : s.storeSum.wmin = s.wmin := rfl
@[simp] theorem State.storeSum_wmax : s.storeSum.wmax = s.wmax := rfl
@[simp] theorem State.storeSum_acc : s.storeSum.acc = s.acc := rfl
@[simp] theorem State.storeSum_sum : s.storeSum.sum = frameSum s.acc := rfl
@[simp] theorem State.storeSum_pin : s.storeSum.pin = s.pin := rfl
@[simp] theorem State.storeSum_maxTries : s.storeSum.maxTries = s.maxTries := rfl
@[simp] theorem State.storeSum_minInterval : s.storeSum.minInterval = s.minInterval := rfl
@[simp] theorem State.storeSum_raise : s.storeSum.raise = s.raise := rfl
@[simp] theorem State.storeSum_status : s.storeSum.status = s.status := rfl
@[simp] theorem State.storeSum_temperature : s.storeSum.temperature = s.temperature := rfl
@[simp] theorem State.storeSum_humidity : s.storeSum.humidity = s.humidity := rfl
@[simp] theorem State.storeSum_outstanding : s.storeSum.outstanding = s.outstanding := rfl
@[simp] theorem State.storeSum_polling : s.storeSum.polling = s.polling := rfl
@[simp] theorem State.storeSum_env : s.storeSum.env = s.env := rfl
@[simp] theorem State.storeSum_rdata : s.storeSum.rdata = s.rdata := rfl
@[simp] theorem State.storeSum_line : s.storeSum.line = s.line := rfl
@[simp] theorem State.storeSum_lineIdx : s.storeSum.lineIdx = s.lineIdx := rfl
@[simp] theorem State.storeSum_portLog : s.storeSum.portLog = s.portLog := rfl

/-! ### hostRead -/

@[simp] theorem State.hostRead_phase (reg : RegNum) : (s.hostRead reg).phase = s.phase := rfl
@[simp] theorem State.hostRead_stepNo (reg : RegNum) : (s.hostRead reg).stepNo = s.stepNo := rfl
@[simp] theorem State.hostRead_rstate (reg : RegNum) : (s.hostRead reg).rstate = s.rstate := rfl
@[simp] theorem State.hostRead_tries (reg : RegNum) : (s.hostRead reg).tries = s.tries := rfl
@[simp] theorem State.hostRead_att (reg : RegNum) : (s.hostRead reg).att = s.att := rfl
@[simp] theorem State.hostRead_lastv (reg : RegNum) : (s.hostRead reg).lastv = s.lastv := rfl
@[simp] theorem State.hostRead_last (reg : RegNum) : (s.hostRead reg).last = s.last := rfl
@[simp] theorem State.hostRead_unchanged (reg : RegNum) : (s.hostRead reg).unchanged = s.unchanged := rfl
@[simp] theorem State.hostRead_tlen (reg : RegNum) : (s.hostRead reg).tlen = s.tlen := rfl
@[simp] theorem State.hostRead_trace (reg : RegNum) : (s.hostRead reg).trace = s.trace := rfl
@[simp] theorem State.hostRead_xs (reg : RegNum) : (s.hostRead reg).xs = s.xs := rfl
@[simp] theorem State.hostRead_run (reg : RegNum) : (s.hostRead reg).run = s.run := rfl
@[simp] theorem State.hostRead_pcount (reg : RegNum) : (s.hostRead reg).pcount = s.pcount := rfl
@[simp] theorem State.hostRead_pw (reg : RegNum) : (s.hostRead reg).pw = s.pw := rfl
@[simp] theorem State.hostRead_wmin (reg : RegNum) : (s.hostRead reg).wmin = s.wmin := rfl
@[simp] theorem State.hostRead_wmax (reg : RegNum) : (s.hostRead reg).wmax = s.wmax := rfl
@[simp] theorem State.hostRead_acc (reg : RegNum) : (s.hostRead reg).acc = s.acc := rfl
@[simp] theorem State.hostRead_sum (reg : RegNum) : (s.hostRead reg).sum = s.sum := rfl
@[simp] theorem State.hostRead_pin (reg : RegNum) : (s.hostRead reg).pin = s.pin := rfl
@[simp] theorem State.hostRead_maxTries (reg : RegNum) : (s.hostRead reg).maxTries = s.maxTries := rfl
@[simp] theorem State.hostRead_minInterval (reg : RegNum) : (s.hostRead reg).minInterval = s.minInterval := rfl
@[simp] theorem State.hostRead_raise (reg : RegNum) : (s.hostRead reg).raise = s.raise := rfl
@[simp] theorem State.hostRead_status (reg : RegNum) : (s.hostRead reg).status = s.status := rfl
@[simp] theorem State.hostRead_temperature (reg : RegNum) : (s.hostRead reg).temperature = s.temperature := rfl
@[simp] theorem State.hostRead_humidity (reg : RegNum) : (s.hostRead reg).humidity = s.humidity := rfl
@[simp] theorem State.hostRead_outstanding (reg : RegNum) : (s.hostRead reg).outstanding = s.outstanding := rfl
@[simp] theorem State.hostRead_polling (reg : RegNum) : (s.hostRead reg).polling = s.polling := rfl
@[simp] theorem State.hostRead_env (reg : RegNum) : (s.hostRead reg).env = s.env := rfl
@[simp] theorem State.hostRead_rdata (reg : RegNum) : (s.hostRead reg).rdata = s.hostReadValue reg := rfl
@[simp] theorem State.hostRead_line (reg : RegNum) : (s.hostRead reg).line = s.line := rfl
@[simp] theorem State.hostRead_lineIdx (reg : RegNum) : (s.hostRead reg).lineIdx = s.lineIdx := rfl
@[simp] theorem State.hostRead_portLog (reg : RegNum) : (s.hostRead reg).portLog = s.portLog := rfl

/-! ### setPin -/

@[simp] theorem State.setPin_phase (data : HostWord) : (s.setPin data).phase = s.phase := rfl
@[simp] theorem State.setPin_stepNo (data : HostWord) : (s.setPin data).stepNo = s.stepNo := rfl
@[simp] theorem State.setPin_rstate (data : HostWord) : (s.setPin data).rstate = s.rstate := rfl
@[simp] theorem State.setPin_tries (data : HostWord) : (s.setPin data).tries = s.tries := rfl
@[simp] theorem State.setPin_att (data : HostWord) : (s.setPin data).att = s.att := rfl
@[simp] theorem State.setPin_lastv (data : HostWord) : (s.setPin data).lastv = s.lastv := rfl
@[simp] theorem State.setPin_last (data : HostWord) : (s.setPin data).last = s.last := rfl
@[simp] theorem State.setPin_unchanged (data : HostWord) : (s.setPin data).unchanged = s.unchanged := rfl
@[simp] theorem State.setPin_tlen (data : HostWord) : (s.setPin data).tlen = s.tlen := rfl
@[simp] theorem State.setPin_trace (data : HostWord) : (s.setPin data).trace = s.trace := rfl
@[simp] theorem State.setPin_xs (data : HostWord) : (s.setPin data).xs = s.xs := rfl
@[simp] theorem State.setPin_run (data : HostWord) : (s.setPin data).run = s.run := rfl
@[simp] theorem State.setPin_pcount (data : HostWord) : (s.setPin data).pcount = s.pcount := rfl
@[simp] theorem State.setPin_pw (data : HostWord) : (s.setPin data).pw = s.pw := rfl
@[simp] theorem State.setPin_wmin (data : HostWord) : (s.setPin data).wmin = s.wmin := rfl
@[simp] theorem State.setPin_wmax (data : HostWord) : (s.setPin data).wmax = s.wmax := rfl
@[simp] theorem State.setPin_acc (data : HostWord) : (s.setPin data).acc = s.acc := rfl
@[simp] theorem State.setPin_sum (data : HostWord) : (s.setPin data).sum = s.sum := rfl
@[simp] theorem State.setPin_pin (data : HostWord) : (s.setPin data).pin = data.extractLsb' 0 8 := rfl
@[simp] theorem State.setPin_maxTries (data : HostWord) : (s.setPin data).maxTries = s.maxTries := rfl
@[simp] theorem State.setPin_minInterval (data : HostWord) : (s.setPin data).minInterval = s.minInterval := rfl
@[simp] theorem State.setPin_raise (data : HostWord) : (s.setPin data).raise = s.raise := rfl
@[simp] theorem State.setPin_status (data : HostWord) : (s.setPin data).status = s.status := rfl
@[simp] theorem State.setPin_temperature (data : HostWord) : (s.setPin data).temperature = s.temperature := rfl
@[simp] theorem State.setPin_humidity (data : HostWord) : (s.setPin data).humidity = s.humidity := rfl
@[simp] theorem State.setPin_outstanding (data : HostWord) : (s.setPin data).outstanding = s.outstanding := rfl
@[simp] theorem State.setPin_polling (data : HostWord) : (s.setPin data).polling = s.polling := rfl
@[simp] theorem State.setPin_env (data : HostWord) : (s.setPin data).env = s.env := rfl
@[simp] theorem State.setPin_rdata (data : HostWord) : (s.setPin data).rdata = s.rdata := rfl
@[simp] theorem State.setPin_line (data : HostWord) : (s.setPin data).line = s.line := rfl
@[simp] theorem State.setPin_lineIdx (data : HostWord) : (s.setPin data).lineIdx = s.lineIdx := rfl
@[simp] theorem State.setPin_portLog (data : HostWord) : (s.setPin data).portLog = s.portLog := rfl

/-! ### setMaxTries -/

@[simp] theorem State.setMaxTries_phase (data : HostWord) : (s.setMaxTries data).phase = s.phase := rfl
@[simp] theorem State.setMaxTries_stepNo (data : HostWord) : (s.setMaxTries data).stepNo = s.stepNo := rfl
@[simp] theorem State.setMaxTries_rstate (data : HostWord) : (s.setMaxTries data).rstate = s.rstate := rfl
@[simp] theorem State.setMaxTries_tries (data : HostWord) : (s.setMaxTries data).tries = s.tries := rfl
@[simp] theorem State.setMaxTries_att (data : HostWord) : (s.setMaxTries data).att = s.att := rfl
@[simp] theorem State.setMaxTries_lastv (data : HostWord) : (s.setMaxTries data).lastv = s.lastv := rfl
@[simp] theorem State.setMaxTries_last (data : HostWord) : (s.setMaxTries data).last = s.last := rfl
@[simp] theorem State.setMaxTries_unchanged (data : HostWord) : (s.setMaxTries data).unchanged = s.unchanged := rfl
@[simp] theorem State.setMaxTries_tlen (data : HostWord) : (s.setMaxTries data).tlen = s.tlen := rfl
@[simp] theorem State.setMaxTries_trace (data : HostWord) : (s.setMaxTries data).trace = s.trace := rfl
@[simp] theorem State.setMaxTries_xs (data : HostWord) : (s.setMaxTries data).xs = s.xs := rfl
@[simp] theorem State.setMaxTries_run (data : HostWord) : (s.setMaxTries data).run = s.run := rfl
@[simp] theorem State.setMaxTries_pcount (data : HostWord) : (s.setMaxTries data).pcount = s.pcount := rfl
@[simp] theorem State.setMaxTries_pw (data : HostWord) : (s.setMaxTries data).pw = s.pw := rfl
@[simp] theorem State.setMaxTries_wmin (data : HostWord) : (s.setMaxTries data).wmin = s.wmin := rfl
@[simp] theorem State.setMaxTries_wmax (data : HostWord) : (s.setMaxTries data).wmax = s.wmax := rfl
@[simp] theorem State.setMaxTries_acc (data : HostWord) : (s.setMaxTries data).acc = s.acc := rfl
@[simp] theorem State.setMaxTries_sum (data : HostWord) : (s.setMaxTries data).sum = s.sum := rfl
@[simp] theorem State.setMaxTries_pin (data : HostWord) : (s.setMaxTries data).pin = s.pin := rfl
@[simp] theorem State.setMaxTries_maxTries (data : HostWord) : (s.setMaxTries data).maxTries = data.extractLsb' 0 8 := rfl
@[simp] theorem State.setMaxTries_minInterval (data : HostWord) : (s.setMaxTries data).minInterval = s.minInterval := rfl
@[simp] theorem State.setMaxTries_raise (data : HostWord) : (s.setMaxTries data).raise = s.raise := rfl
@[simp] theorem State.setMaxTries_status (data : HostWord) : (s.setMaxTries data).status = s.status := rfl
@[simp] theorem State.setMaxTries_temperature (data : HostWord) : (s.setMaxTries data).temperature = s.temperature := rfl
@[simp] theorem State.setMaxTries_humidity (data : HostWord) : (s.setMaxTries data).humidity = s.humidity := rfl
@[simp] theorem State.setMaxTries_outstanding (data : HostWord) : (s.setMaxTries data).outstanding = s.outstanding := rfl
@[simp] theorem State.setMaxTries_polling (data : HostWord) : (s.setMaxTries data).polling = s.polling := rfl
@[simp] theorem State.setMaxTries_env (data : HostWord) : (s.setMaxTries data).env = s.env := rfl
@[simp] theorem State.setMaxTries_rdata (data : HostWord) : (s.setMaxTries data).rdata = s.rdata := rfl
@[simp] theorem State.setMaxTries_line (data : HostWord) : (s.setMaxTries data).line = s.line := rfl
@[simp] theorem State.setMaxTries_lineIdx (data : HostWord) : (s.setMaxTries data).lineIdx = s.lineIdx := rfl
@[simp] theorem State.setMaxTries_portLog (data : HostWord) : (s.setMaxTries data).portLog = s.portLog := rfl

/-! ### setMinInterval -/

@[simp] theorem State.setMinInterval_phase (data : HostWord) : (s.setMinInterval data).phase = s.phase := rfl
@[simp] theorem State.setMinInterval_stepNo (data : HostWord) : (s.setMinInterval data).stepNo = s.stepNo := rfl
@[simp] theorem State.setMinInterval_rstate (data : HostWord) : (s.setMinInterval data).rstate = s.rstate := rfl
@[simp] theorem State.setMinInterval_tries (data : HostWord) : (s.setMinInterval data).tries = s.tries := rfl
@[simp] theorem State.setMinInterval_att (data : HostWord) : (s.setMinInterval data).att = s.att := rfl
@[simp] theorem State.setMinInterval_lastv (data : HostWord) : (s.setMinInterval data).lastv = s.lastv := rfl
@[simp] theorem State.setMinInterval_last (data : HostWord) : (s.setMinInterval data).last = s.last := rfl
@[simp] theorem State.setMinInterval_unchanged (data : HostWord) : (s.setMinInterval data).unchanged = s.unchanged := rfl
@[simp] theorem State.setMinInterval_tlen (data : HostWord) : (s.setMinInterval data).tlen = s.tlen := rfl
@[simp] theorem State.setMinInterval_trace (data : HostWord) : (s.setMinInterval data).trace = s.trace := rfl
@[simp] theorem State.setMinInterval_xs (data : HostWord) : (s.setMinInterval data).xs = s.xs := rfl
@[simp] theorem State.setMinInterval_run (data : HostWord) : (s.setMinInterval data).run = s.run := rfl
@[simp] theorem State.setMinInterval_pcount (data : HostWord) : (s.setMinInterval data).pcount = s.pcount := rfl
@[simp] theorem State.setMinInterval_pw (data : HostWord) : (s.setMinInterval data).pw = s.pw := rfl
@[simp] theorem State.setMinInterval_wmin (data : HostWord) : (s.setMinInterval data).wmin = s.wmin := rfl
@[simp] theorem State.setMinInterval_wmax (data : HostWord) : (s.setMinInterval data).wmax = s.wmax := rfl
@[simp] theorem State.setMinInterval_acc (data : HostWord) : (s.setMinInterval data).acc = s.acc := rfl
@[simp] theorem State.setMinInterval_sum (data : HostWord) : (s.setMinInterval data).sum = s.sum := rfl
@[simp] theorem State.setMinInterval_pin (data : HostWord) : (s.setMinInterval data).pin = s.pin := rfl
@[simp] theorem State.setMinInterval_maxTries (data : HostWord) : (s.setMinInterval data).maxTries = s.maxTries := rfl
@[simp] theorem State.setMinInterval_minInterval (data : HostWord) : (s.setMinInterval data).minInterval = data := rfl
@[simp] theorem State.setMinInterval_raise (data : HostWord) : (s.setMinInterval data).raise = s.raise := rfl
@[simp] theorem State.setMinInterval_status (data : HostWord) : (s.setMinInterval data).status = s.status := rfl
@[simp] theorem State.setMinInterval_temperature (data : HostWord) : (s.setMinInterval data).temperature = s.temperature := rfl
@[simp] theorem State.setMinInterval_humidity (data : HostWord) : (s.setMinInterval data).humidity = s.humidity := rfl
@[simp] theorem State.setMinInterval_outstanding (data : HostWord) : (s.setMinInterval data).outstanding = s.outstanding := rfl
@[simp] theorem State.setMinInterval_polling (data : HostWord) : (s.setMinInterval data).polling = s.polling := rfl
@[simp] theorem State.setMinInterval_env (data : HostWord) : (s.setMinInterval data).env = s.env := rfl
@[simp] theorem State.setMinInterval_rdata (data : HostWord) : (s.setMinInterval data).rdata = s.rdata := rfl
@[simp] theorem State.setMinInterval_line (data : HostWord) : (s.setMinInterval data).line = s.line := rfl
@[simp] theorem State.setMinInterval_lineIdx (data : HostWord) : (s.setMinInterval data).lineIdx = s.lineIdx := rfl
@[simp] theorem State.setMinInterval_portLog (data : HostWord) : (s.setMinInterval data).portLog = s.portLog := rfl

/-! ### setPolicy -/

@[simp] theorem State.setPolicy_phase (data : HostWord) : (s.setPolicy data).phase = s.phase := rfl
@[simp] theorem State.setPolicy_stepNo (data : HostWord) : (s.setPolicy data).stepNo = s.stepNo := rfl
@[simp] theorem State.setPolicy_rstate (data : HostWord) : (s.setPolicy data).rstate = s.rstate := rfl
@[simp] theorem State.setPolicy_tries (data : HostWord) : (s.setPolicy data).tries = s.tries := rfl
@[simp] theorem State.setPolicy_att (data : HostWord) : (s.setPolicy data).att = s.att := rfl
@[simp] theorem State.setPolicy_lastv (data : HostWord) : (s.setPolicy data).lastv = s.lastv := rfl
@[simp] theorem State.setPolicy_last (data : HostWord) : (s.setPolicy data).last = s.last := rfl
@[simp] theorem State.setPolicy_unchanged (data : HostWord) : (s.setPolicy data).unchanged = s.unchanged := rfl
@[simp] theorem State.setPolicy_tlen (data : HostWord) : (s.setPolicy data).tlen = s.tlen := rfl
@[simp] theorem State.setPolicy_trace (data : HostWord) : (s.setPolicy data).trace = s.trace := rfl
@[simp] theorem State.setPolicy_xs (data : HostWord) : (s.setPolicy data).xs = s.xs := rfl
@[simp] theorem State.setPolicy_run (data : HostWord) : (s.setPolicy data).run = s.run := rfl
@[simp] theorem State.setPolicy_pcount (data : HostWord) : (s.setPolicy data).pcount = s.pcount := rfl
@[simp] theorem State.setPolicy_pw (data : HostWord) : (s.setPolicy data).pw = s.pw := rfl
@[simp] theorem State.setPolicy_wmin (data : HostWord) : (s.setPolicy data).wmin = s.wmin := rfl
@[simp] theorem State.setPolicy_wmax (data : HostWord) : (s.setPolicy data).wmax = s.wmax := rfl
@[simp] theorem State.setPolicy_acc (data : HostWord) : (s.setPolicy data).acc = s.acc := rfl
@[simp] theorem State.setPolicy_sum (data : HostWord) : (s.setPolicy data).sum = s.sum := rfl
@[simp] theorem State.setPolicy_pin (data : HostWord) : (s.setPolicy data).pin = s.pin := rfl
@[simp] theorem State.setPolicy_maxTries (data : HostWord) : (s.setPolicy data).maxTries = s.maxTries := rfl
@[simp] theorem State.setPolicy_minInterval (data : HostWord) : (s.setPolicy data).minInterval = s.minInterval := rfl
@[simp] theorem State.setPolicy_raise (data : HostWord) : (s.setPolicy data).raise = data.getLsbD 0 := rfl
@[simp] theorem State.setPolicy_status (data : HostWord) : (s.setPolicy data).status = s.status := rfl
@[simp] theorem State.setPolicy_temperature (data : HostWord) : (s.setPolicy data).temperature = s.temperature := rfl
@[simp] theorem State.setPolicy_humidity (data : HostWord) : (s.setPolicy data).humidity = s.humidity := rfl
@[simp] theorem State.setPolicy_outstanding (data : HostWord) : (s.setPolicy data).outstanding = s.outstanding := rfl
@[simp] theorem State.setPolicy_polling (data : HostWord) : (s.setPolicy data).polling = s.polling := rfl
@[simp] theorem State.setPolicy_env (data : HostWord) : (s.setPolicy data).env = s.env := rfl
@[simp] theorem State.setPolicy_rdata (data : HostWord) : (s.setPolicy data).rdata = s.rdata := rfl
@[simp] theorem State.setPolicy_line (data : HostWord) : (s.setPolicy data).line = s.line := rfl
@[simp] theorem State.setPolicy_lineIdx (data : HostWord) : (s.setPolicy data).lineIdx = s.lineIdx := rfl
@[simp] theorem State.setPolicy_portLog (data : HostWord) : (s.setPolicy data).portLog = s.portLog := rfl

end Sys2Proof.Machine
end

