-- ==== Sys2Proof/Laws/Ops.lean ====
section
/-! SUPPORT. Sys2Proof/Laws/Ops.lean: for each shared operation, one lemma that says everything it can do. -/

namespace Sys2Proof.Machine

/-! ## Reading the trace -/

theorem State.memRead_eq_ok_iff (s : State) (i : Nat) (l : Level) :
    s.memRead i = .ok l ↔ i < s.tlen ∧ s.trace.readLevel i = some l := by
  unfold State.memRead
  split
  · next h => cases h' : s.trace.readLevel i <;> simp [h]
  · next h => simp [h]

/-- n entries read one after another are the Levels of those entries. -/
theorem State.readFrom_eq_ok_iff (s : State) (i n : Nat) (ls : List Level) :
    s.readFrom i n = .ok ls ↔ ls.length = n ∧ ∀ k, k < n → s.memRead (i + k) = .ok (ls.getD k .low) := by
  induction n generalizing i ls with
  | zero => cases ls <;> simp [State.readFrom]
  | succ n ih =>
    rw [State.readFrom]
    constructor
    · intro h
      split at h
      · cases h
      · next l hl =>
        split at h
        · cases h
        · next ls' hls =>
          cases h
          obtain ⟨h1, h2⟩ := (ih (i + 1) ls').1 hls
          refine ⟨by simp [h1], ?_⟩
          intro k hk
          cases k with
          | zero => simpa using hl
          | succ k =>
            have := h2 k (by omega)
            rw [show i + (k + 1) = i + 1 + k by omega, this]
            simp
    · rintro ⟨h1, h2⟩
      cases ls with
      | nil => simp at h1
      | cons l ls =>
        have h0 : s.memRead i = .ok l := by simpa using h2 0 (by omega)
        have hrest : s.readFrom (i + 1) n = .ok ls := by
          refine (ih (i + 1) ls).2 ⟨by simpa using h1, ?_⟩
          intro k hk
          have := h2 (k + 1) (by omega)
          rw [show i + 1 + k = i + (k + 1) by omega, this]
          simp
        rw [h0, hrest]

/-- The trace reads as a list exactly when that list has TLEN Levels, each the entry's. -/
theorem State.readTrace_eq_ok_iff (s : State) (ls : List Level) :
    s.readTrace = .ok ls ↔ ls.length = s.tlen ∧ ∀ i, i < s.tlen → s.trace.readLevel i = some (ls.getD i .low) := by
  unfold State.readTrace
  rw [State.readFrom_eq_ok_iff]
  constructor
  · rintro ⟨h1, h2⟩
    exact ⟨h1, fun i hi => ((s.memRead_eq_ok_iff i _).1 (by simpa using h2 i hi)).2⟩
  · rintro ⟨h1, h2⟩
    exact ⟨h1, fun i hi => by simpa using (s.memRead_eq_ok_iff i _).2 ⟨hi, h2 i hi⟩⟩

/-- A trace whose entries below TLEN have all been written can be read. -/
theorem State.readTrace_of_written (s : State) (h : ∀ i, i < s.tlen → (s.trace.readByte i).isSome = true) :
    ∃ ls, s.readTrace = .ok ls := by
  refine ⟨(List.range s.tlen).map (fun i => (s.trace.readLevel i).getD .low), ?_⟩
  rw [State.readTrace_eq_ok_iff]
  refine ⟨by simp, fun i hi => ?_⟩
  have := h i hi
  rw [← Memory.readLevel_isSome] at this
  obtain ⟨l, hl⟩ := Option.isSome_iff_exists.1 this
  simp [List.getD, hi, hl]

/-! ## The change detector -/

/-- The three things the change detector can do. -/
theorem State.detectChange_cases (c : Level) (s : State) :
    (s.isChange c = true ∧ s.detectChange c = s.markChange c) ∨
    (s.isChange c = false ∧ (s.unchanged + 1).toNat = Config.unchangedThreshold ∧
      s.detectChange c = s.countUnchanged.endCapture) ∨
    (s.isChange c = false ∧ (s.unchanged + 1).toNat ≠ Config.unchangedThreshold ∧
      s.detectChange c = s.countUnchanged) := by
  unfold State.detectChange
  by_cases h : s.isChange c = true
  · exact .inl ⟨h, if_pos h⟩
  · rw [if_neg h, State.countUnchanged_unchanged]
    by_cases h' : (s.unchanged + 1).toNat = Config.unchangedThreshold
    · exact .inr (.inl ⟨by simpa using h, h', if_pos h'⟩)
    · exact .inr (.inr ⟨by simpa using h, h', if_neg h'⟩)

/-- The change detector writes UNCHANGED, LAST, LASTV, PHASE and the capture's mark only. -/
theorem State.detectChange_frame (c : Level) (s : State) :
    s.detectChange c = { s with
      unchanged := (s.detectChange c).unchanged, last := (s.detectChange c).last, lastv := (s.detectChange c).lastv,
      phase := (s.detectChange c).phase, polling := (s.detectChange c).polling } := by
  rcases s.detectChange_cases c with ⟨-, h⟩ | ⟨-, -, h⟩ | ⟨-, -, h⟩ <;> rw [h] <;> rfl

/-- If a sample is taken, there was room for it, and it was appended and tested. -/
theorem State.takeSample_eq_next_iff (depth : Nat) (c : Level) (s t : State) :
    s.takeSample depth c = .next t ↔ s.tlen < depth ∧ t = (s.appendSample c).detectChange c := by
  unfold State.takeSample
  split <;> simp [*, eq_comm]

/-- The LINE moves on in one of two ways; nothing else changes. -/
theorem State.advanceLine_frame (s : State) :
    s.advanceLine = { s with line := s.advanceLine.line, lineIdx := s.advanceLine.lineIdx } := by
  unfold State.advanceLine
  split <;> rfl

theorem State.advanceLine_cons {s : State} {l : Level} {rest : List Level} (h : s.line = l :: rest) :
    s.advanceLine = { s with line := rest } := by
  unfold State.advanceLine
  rw [h]

theorem State.lineLevel_cons {s : State} {l : Level} {rest : List Level} (h : s.line = l :: rest) :
    s.lineLevel = l := by
  unfold State.lineLevel
  rw [h]

/-! ## The RetryController -/

theorem State.endBackoff_cases (s : State) :
    (s.tries = s.maxTries ∧ s.endBackoff = s.exhaust) ∨ (s.tries ≠ s.maxTries ∧ s.endBackoff = s.retry) := by
  unfold State.endBackoff
  split <;> simp [*]

theorem State.advanceHandshake_cases (s : State) :
    (s.stepNo = 6 ∧ s.advanceHandshake = s.enterPoll) ∨ (s.stepNo ≠ 6 ∧ s.advanceHandshake = s.nextStep) := by
  unfold State.advanceHandshake
  split <;> simp [*]

/-- What CTRL does when a command completes, by phase. -/
theorem State.afterCommand_cases (s : State) :
    (s.phase = .acqRequest ∧ s.afterCommand = s.advanceHandshake) ∨ (s.phase = .backoff ∧ s.afterCommand = s.endBackoff) ∨
    (s.phase ≠ .acqRequest ∧ s.phase ≠ .backoff ∧ s.afterCommand = s) := by
  unfold State.afterCommand
  cases h : s.phase <;> simp

/-- A completed command moves PHASE, STEP, RSTATE and STATUS only. -/
theorem State.afterCommand_frame (s : State) :
    s.afterCommand = { s with
      phase := s.afterCommand.phase, stepNo := s.afterCommand.stepNo, rstate := s.afterCommand.rstate,
      status := s.afterCommand.status } := by
  rcases s.afterCommand_cases with ⟨-, h⟩ | ⟨-, h⟩ | ⟨-, -, h⟩
  · rcases s.advanceHandshake_cases with ⟨-, h'⟩ | ⟨-, h'⟩ <;> rw [h, h'] <;> rfl
  · rcases s.endBackoff_cases with ⟨-, h'⟩ | ⟨-, h'⟩ <;> rw [h, h'] <;> rfl
  · rw [h]

theorem State.beginRead_cases (s : State) :
    (s.maxTries = 0 ∧ s.beginRead = s.clearReading.failAtOnce) ∨
    (s.maxTries ≠ 0 ∧ s.beginRead = s.clearReading.startAttempting) := by
  unfold State.beginRead
  by_cases h : s.maxTries = 0
  · exact .inl ⟨h, if_pos h⟩
  · exact .inr ⟨h, if_neg h⟩

theorem State.pollHead_cases (depth : Nat) (s : State) :
    (s.tlen = depth ∧ s.pollHead depth = s.failAttempt .acquisitionTimeout) ∨
    (s.tlen ≠ depth ∧ s.pollHead depth = s.issue (pinReadWord s.pin)) := by
  unfold State.pollHead
  split <;> simp [*]

theorem State.judgeLength_cases (s : State) :
    (s.pcount.toNat = Config.nBits ∧ s.judgeLength = s.enterDecode) ∨
    (s.pcount.toNat ≠ Config.nBits ∧ s.judgeLength = s.failAttempt .invalidFrameLength) := by
  unfold State.judgeLength
  split <;> simp [*]

theorem State.judgeChecksum_cases (s : State) :
    (frameByte s.acc 4 = s.sum ∧
      s.judgeChecksum = s.succeed (toTenths (temperatureTenths s.acc)) (toTenths (humidityTenths s.acc))) ∨
    (frameByte s.acc 4 ≠ s.sum ∧ s.judgeChecksum = s.failAttempt .checksumMismatch) := by
  unfold State.judgeChecksum
  split <;> simp [*]

/-! ## The scan -/

/-- What one sample of the scan can do. -/
theorem Scan.sample_cases (r : Scan) (c : Level) :
    (r.xs ≠ .data ∧ ∃ x, r.sample c = { r with xs := x }) ∨
    (r.xs = .data ∧ c = .high ∧ r.sample c = { r with run := r.run + 1 }) ∨
    (r.xs = .data ∧ c = .low ∧ 0 < r.run ∧ r.sample c = { r.emit r.run with run := 0 }) ∨
    (r.xs = .data ∧ c = .low ∧ r.run = 0 ∧ r.sample c = r) := by
  obtain ⟨xs, run, pcount, pw⟩ := r
  cases xs <;> cases c <;> simp [Scan.sample]
  by_cases h : 0 < run
  · exact .inl ⟨h, fun h0 => absurd h (by omega)⟩
  · exact .inr ⟨Nat.eq_zero_of_not_pos h, fun h' => absurd h' h⟩

/-! ## The port's bookkeeping and the step -/

/-- Every PIN_READ outside ACQ_POLL only completes. -/
theorem pinReadAt_elsewhere (depth : Nat) (pin : Pin) (s : State) (h : s.phase ≠ .acqPoll) :
    pinReadAt depth pin s = .next (s.completePort (pinReadWord pin)).advanceLine.afterCommand := by
  unfold pinReadAt
  cases hp : s.phase <;> simp_all

theorem pinReadAt_polling (depth : Nat) (pin : Pin) (s : State) (h : s.phase = .acqPoll) :
    pinReadAt depth pin s = (s.completePort (pinReadWord pin)).advanceLine.takeSample depth s.lineLevel := by
  unfold pinReadAt
  rw [h]

@[simp] theorem Fetched.perform_run (i : Instr) (s : State) : (Fetched.run i s).perform = exec i s := rfl

@[simp] theorem Fetched.perform_done (r : Result) : (Fetched.done r).perform = r := rfl

/-- A step with an event of the outside waiting. -/
theorem step_cons {s : State} {e : EnvEvent} {rest : List EnvEvent} (h : s.env = e :: rest) :
    step s = (eventFetch e { s with env := rest }).perform := by
  simp only [step, fetch, h]

/-- A step of CTRL and the PORT. -/
theorem step_nil {s : State} (h : s.env = []) : step s = (ctrlFetch s).perform := by
  simp only [step, fetch, h]

/-- What CTRL and the PORT do next. -/
theorem ctrlFetch_cases (s : State) :
    (∃ w, s.outstanding = some w ∧
      ((∃ i, decodePortWord w = .ok i ∧ ctrlFetch s = .run i s) ∨
        (∃ e, decodePortWord w = .error e ∧ ctrlFetch s = .done (.refused (.portWordUndefined w))))) ∨
    (s.outstanding = none ∧ s.rstate = .attempting ∧
      ((∃ i, Sys2Proof.decode (.phase s.phase.code) = .ok i ∧ ctrlFetch s = .run i s) ∨
        (s.phase = .idle ∧ ctrlFetch s = .done (.next s)))) ∨
    (s.outstanding = none ∧ s.rstate ≠ .attempting ∧ ctrlFetch s = .done (.next s)) := by
  unfold ctrlFetch
  cases ho : s.outstanding with
  | some w =>
    left
    refine ⟨w, rfl, ?_⟩
    cases hd : decodePortWord w with
    | ok i => exact .inl ⟨i, rfl, by simp [decode, hd]⟩
    | error e => exact .inr ⟨e, rfl, by simp [decode, hd]⟩
  | none =>
    by_cases hr : s.rstate = .attempting
    · refine .inr (.inl ⟨rfl, hr, ?_⟩)
      have hb : s.busy = true := by simp [State.busy, hr]
      cases hp : s.phase <;> simp [hb, decode_phase_code]
    · refine .inr (.inr ⟨rfl, hr, ?_⟩)
      have hb : s.busy = false := by simp [State.busy, hr]
      simp [hb]

@[simp] theorem State.busy_iff (s : State) : s.busy = true ↔ s.rstate = .attempting := by simp [State.busy]

theorem State.guardedWrite_busy {s : State} (reg : RegNum) (r : Result) (h : s.rstate = .attempting) :
    s.guardedWrite reg r = .done (.refused (.hostWriteWhileBusy reg)) := by
  unfold State.guardedWrite
  rw [if_pos (s.busy_iff.2 h)]

theorem State.guardedWrite_free {s : State} (reg : RegNum) (r : Result) (h : s.rstate ≠ .attempting) :
    s.guardedWrite reg r = .done r := by
  unfold State.guardedWrite
  rw [if_neg (fun hb => h (s.busy_iff.1 hb))]

/-- Of the CMD codes that name no operation, 0x00 leaves the state as it is and the others are refused. -/
theorem State.otherCommand_cases (s : State) (code : BitVec 8) :
    (code = 0x00 ∧ s.otherCommand code = .next s) ∨
    (code ≠ 0x00 ∧ s.otherCommand code = .refused (.hostCommandReserved code)) := by
  by_cases h : code = 0x00
  · exact .inl ⟨h, if_pos h⟩
  · exact .inr ⟨h, if_neg h⟩

/-- A host write of CMD runs READ for code 0x01, and is a guarded write of another command code otherwise. -/
theorem hostWriteRegister_cmd (data : HostWord) (s : State) :
    (commandCode data = 0x01 ∧ hostWriteRegister 0 data s = .run .read s) ∨
    (commandCode data ≠ 0x01 ∧ hostWriteRegister 0 data s = s.guardedWrite 0 (s.otherCommand (commandCode data))) := by
  by_cases hc : commandCode data = 0x01
  · exact .inl ⟨hc, by simp [hostWriteRegister, decode, decodeHostCode, hc]⟩
  · refine .inr ⟨hc, ?_⟩
    by_cases h0 : commandCode data = 0x00
    · simp [hostWriteRegister, decode, decodeHostCode, h0]
    · simp only [hostWriteRegister, decode, decodeHostCode, if_neg hc, if_neg h0]
      rfl

/-- A host write of a read-only or a reserved register is ignored. -/
theorem hostWriteRegister_other (reg : RegNum) (data : HostWord) (s : State) (h : 5 ≤ reg.toNat) :
    hostWriteRegister reg data s = .done (.next s) := by
  unfold hostWriteRegister
  split <;> first | rfl | (exfalso; revert h; decide)

/-- A register number is one of CMD, the four configuration registers, or above. -/
theorem regNum_cases (reg : RegNum) : reg = 0 ∨ reg = 1 ∨ reg = 2 ∨ reg = 3 ∨ reg = 4 ∨ 5 ≤ reg.toNat := by
  revert reg
  decide

end Sys2Proof.Machine
end

