-- ==== Sys2Proof/Laws/Exec.lean ====
section
/-! SUPPORT. Sys2Proof/Laws/Exec.lean: what an operation that answers a next state can have done
(`exec_outcomes`), and what a step can have been (`step_outcomes`). Later proofs cite these and unfold no meaning. -/

namespace Sys2Proof.Machine

/-! ## The LINE's move leaves every other field -/

@[simp] theorem State.advanceLine_phase (s : State) : s.advanceLine.phase = s.phase := by
  rw [State.advanceLine_frame]
@[simp] theorem State.advanceLine_stepNo (s : State) : s.advanceLine.stepNo = s.stepNo := by
  rw [State.advanceLine_frame]
@[simp] theorem State.advanceLine_rstate (s : State) : s.advanceLine.rstate = s.rstate := by
  rw [State.advanceLine_frame]
@[simp] theorem State.advanceLine_tries (s : State) : s.advanceLine.tries = s.tries := by
  rw [State.advanceLine_frame]
@[simp] theorem State.advanceLine_att (s : State) : s.advanceLine.att = s.att := by
  rw [State.advanceLine_frame]
@[simp] theorem State.advanceLine_lastv (s : State) : s.advanceLine.lastv = s.lastv := by
  rw [State.advanceLine_frame]
@[simp] theorem State.advanceLine_last (s : State) : s.advanceLine.last = s.last := by
  rw [State.advanceLine_frame]
@[simp] theorem State.advanceLine_unchanged (s : State) : s.advanceLine.unchanged = s.unchanged := by
  rw [State.advanceLine_frame]
@[simp] theorem State.advanceLine_tlen (s : State) : s.advanceLine.tlen = s.tlen := by
  rw [State.advanceLine_frame]
@[simp] theorem State.advanceLine_trace (s : State) : s.advanceLine.trace = s.trace := by
  rw [State.advanceLine_frame]
@[simp] theorem State.advanceLine_xs (s : State) : s.advanceLine.xs = s.xs := by
  rw [State.advanceLine_frame]
@[simp] theorem State.advanceLine_run (s : State) : s.advanceLine.run = s.run := by
  rw [State.advanceLine_frame]
@[simp] theorem State.advanceLine_pcount (s : State) : s.advanceLine.pcount = s.pcount := by
  rw [State.advanceLine_frame]
@[simp] theorem State.advanceLine_pw (s : State) : s.advanceLine.pw = s.pw := by
  rw [State.advanceLine_frame]
@[simp] theorem State.advanceLine_wmin (s : State) : s.advanceLine.wmin = s.wmin := by
  rw [State.advanceLine_frame]
@[simp] theorem State.advanceLine_wmax (s : State) : s.advanceLine.wmax = s.wmax := by
  rw [State.advanceLine_frame]
@[simp] theorem State.advanceLine_acc (s : State) : s.advanceLine.acc = s.acc := by
  rw [State.advanceLine_frame]
@[simp] theorem State.advanceLine_sum (s : State) : s.advanceLine.sum = s.sum := by
  rw [State.advanceLine_frame]
@[simp] theorem State.advanceLine_pin (s : State) : s.advanceLine.pin = s.pin := by
  rw [State.advanceLine_frame]
@[simp] theorem State.advanceLine_maxTries (s : State) : s.advanceLine.maxTries = s.maxTries := by
  rw [State.advanceLine_frame]
@[simp] theorem State.advanceLine_minInterval (s : State) : s.advanceLine.minInterval = s.minInterval := by
  rw [State.advanceLine_frame]
@[simp] theorem State.advanceLine_raise (s : State) : s.advanceLine.raise = s.raise := by
  rw [State.advanceLine_frame]
@[simp] theorem State.advanceLine_status (s : State) : s.advanceLine.status = s.status := by
  rw [State.advanceLine_frame]
@[simp] theorem State.advanceLine_temperature (s : State) : s.advanceLine.temperature = s.temperature := by
  rw [State.advanceLine_frame]
@[simp] theorem State.advanceLine_humidity (s : State) : s.advanceLine.humidity = s.humidity := by
  rw [State.advanceLine_frame]
@[simp] theorem State.advanceLine_outstanding (s : State) : s.advanceLine.outstanding = s.outstanding := by
  rw [State.advanceLine_frame]
@[simp] theorem State.advanceLine_polling (s : State) : s.advanceLine.polling = s.polling := by
  rw [State.advanceLine_frame]
@[simp] theorem State.advanceLine_env (s : State) : s.advanceLine.env = s.env := by
  rw [State.advanceLine_frame]
@[simp] theorem State.advanceLine_rdata (s : State) : s.advanceLine.rdata = s.rdata := by
  rw [State.advanceLine_frame]
@[simp] theorem State.advanceLine_portLog (s : State) : s.advanceLine.portLog = s.portLog := by
  rw [State.advanceLine_frame]

/-! ## Shared operations -/

/-- The three things ACQ_POLL can do. -/
theorem acqPollAt_outcomes (s : State) :
  (s.polling = true ∧ s.tlen = Config.traceDepth ∧ acqPollAt Config.traceDepth s = s.failAttempt .acquisitionTimeout) ∨
  (s.polling = true ∧ s.tlen ≠ Config.traceDepth ∧ acqPollAt Config.traceDepth s = s.issue (pinReadWord s.pin)) ∨
  (s.polling = false ∧ acqPollAt Config.traceDepth s = s.startCapture.issue (pinReadWord s.pin)) := by
  unfold acqPollAt
  by_cases h : s.polling = true
  · rw [if_pos h]
    rcases s.pollHead_cases Config.traceDepth with h' | h'
    · exact .inl ⟨h, h'⟩
    · exact .inr (.inl ⟨h, h'⟩)
  · rw [if_neg h]
    rcases s.startCapture.pollHead_cases Config.traceDepth with h' | h'
    · exfalso; have := h'.1; simp [Config.traceDepth] at this
    · exact .inr (.inr ⟨by simpa using h, h'.2⟩)

/-- The five things CTRL can do when a command that answers no Level completes. -/
theorem State.afterCommand_outcomes (s : State) :
    (s.phase = .acqRequest ∧ s.stepNo = 6 ∧ s.afterCommand = s.enterPoll) ∨
    (s.phase = .acqRequest ∧ s.stepNo ≠ 6 ∧ s.afterCommand = s.nextStep) ∨
    (s.phase = .backoff ∧ s.tries = s.maxTries ∧ s.afterCommand = s.exhaust) ∨
    (s.phase = .backoff ∧ s.tries ≠ s.maxTries ∧ s.afterCommand = s.retry) ∨
    (s.phase ≠ .acqRequest ∧ s.phase ≠ .backoff ∧ s.afterCommand = s) := by
  rcases s.afterCommand_cases with ⟨h, h'⟩ | ⟨h, h'⟩ | h
  · rcases s.advanceHandshake_cases with ⟨g, g'⟩ | ⟨g, g'⟩
    · exact .inl ⟨h, g, by rw [h', g']⟩
    · exact .inr (.inl ⟨h, g, by rw [h', g']⟩)
  · rcases s.endBackoff_cases with ⟨g, g'⟩ | ⟨g, g'⟩
    · exact .inr (.inr (.inl ⟨h, g, by rw [h', g']⟩))
    · exact .inr (.inr (.inr (.inl ⟨h, g, by rw [h', g']⟩)))
  · exact .inr (.inr (.inr (.inr h)))

/-- The three things the change detector can do, by the registers it tests. -/
theorem State.detectChange_outcomes (c : Level) (s : State) :
    ((s.lastv = false ∨ s.last ≠ c) ∧ s.detectChange c = s.markChange c) ∨
    (s.lastv = true ∧ s.last = c ∧ (s.unchanged + 1).toNat = 200 ∧ s.detectChange c = s.countUnchanged.endCapture) ∨
    (s.lastv = true ∧ s.last = c ∧ (s.unchanged + 1).toNat ≠ 200 ∧ s.detectChange c = s.countUnchanged) := by
  rcases s.detectChange_cases c with ⟨g, g'⟩ | ⟨g, g', g''⟩ | ⟨g, g', g''⟩
  · exact .inl ⟨by simpa [State.isChange] using g, g'⟩
  · have : s.lastv = true ∧ s.last = c := by simpa [State.isChange] using g
    exact .inr (.inl ⟨this.1, this.2, by simpa [Config.unchangedThreshold] using g', g''⟩)
  · have : s.lastv = true ∧ s.last = c := by simpa [State.isChange] using g
    exact .inr (.inr ⟨this.1, this.2, by simpa [Config.unchangedThreshold] using g', g''⟩)

/-! ## Operations -/

/-- A completed port command that answers no Level: the port's completion and CTRL's bookkeeping. -/
theorem exec_portCommand (i : Instr) (w : PortWord) (s : State) (h : encode i = .gcmd w) (hp : ∀ p, i ≠ .pinRead p) :
    exec i s = .next (s.completePort w).afterCommand := by
  cases i <;> simp [encode] at h <;> subst h <;> first | rfl | exact absurd rfl (hp _)

/-- READ answers a next state exactly when the block is not busy. -/
theorem execRead_eq_next_iff (s t : State) : execRead s = .next t ↔ s.rstate ≠ .attempting ∧ t = s.beginRead := by
  unfold execRead
  by_cases h : s.busy = true
  · rw [if_pos h]; simp [s.busy_iff.1 h]
  · rw [if_neg h]
    have : s.rstate ≠ .attempting := fun hh => h (s.busy_iff.2 hh)
    simp [this, eq_comm]

/-- EXTRACT answers a next state exactly when the trace can be read. -/
theorem execExtract_eq_next_iff (s t : State) :
    execExtract s = .next t ↔
      ∃ ls, s.readTrace = .ok ls ∧ t = (s.storeScan (Scan.trace s.pw ls)).judgeLength := by
  unfold execExtract
  cases h : s.readTrace <;> simp [eq_comm]

/-- An operation that answers a next state did one of these, by its meaning. -/
theorem exec_cases (i : Instr) (s t : State) (h : exec i s = .next t) :
  (i = .read ∧ s.rstate ≠ .attempting ∧ t = s.beginRead) ∨
  (∃ w, encode i = .gcmd w ∧ (∀ p, i ≠ .pinRead p) ∧ t = (s.completePort w).afterCommand) ∨
  (∃ p, i = .pinRead p ∧ s.phase ≠ .acqPoll ∧ t = (s.completePort (pinReadWord p)).advanceLine.afterCommand) ∨
  (∃ p, i = .pinRead p ∧ s.phase = .acqPoll ∧ s.tlen < Config.traceDepth ∧
    t = ((s.completePort (pinReadWord p)).advanceLine.appendSample s.lineLevel).detectChange s.lineLevel) ∨
  (i = .acqRequest ∧ t = s.issue (handshakeWord s.pin s.stepNo)) ∨
  (i = .acqPoll ∧ t = acqPollAt Config.traceDepth s) ∨
  (i = .extract ∧ ∃ ls, s.readTrace = .ok ls ∧ t = (s.storeScan (Scan.trace s.pw ls)).judgeLength) ∨
  (i = .decode ∧ t = s.storeDecoded) ∨
  (i = .validate ∧ t = s.storeSum.judgeChecksum) ∨
  (i = .backoff ∧ t = s.issue (sleepWord s.pin s.minInterval.toNat)) := by
  cases i with
  | read =>
    left
    have : execRead s = .next t := h
    unfold execRead at this
    split at this
    · cases this
    · next hb => cases this; exact ⟨rfl, fun hh => hb (s.busy_iff.2 hh), rfl⟩
  | cfgOut p l => right; left; cases h; exact ⟨_, rfl, by simp, rfl⟩
  | cfgIn p => right; left; cases h; exact ⟨_, rfl, by simp, rfl⟩
  | write p l => right; left; cases h; exact ⟨_, rfl, by simp, rfl⟩
  | sleep p l => right; left; cases h; exact ⟨_, rfl, by simp, rfl⟩
  | pinRead p =>
    right; right
    have h : pinReadAt Config.traceDepth p s = .next t := h
    by_cases hp : s.phase = .acqPoll
    · right; left
      rw [pinReadAt_polling _ _ _ hp, State.takeSample_eq_next_iff] at h
      refine ⟨p, rfl, hp, ?_, h.2⟩
      have := h.1
      rw [State.advanceLine_frame] at this; exact this
    · left
      rw [pinReadAt_elsewhere _ _ _ hp] at h
      cases h; exact ⟨p, rfl, hp, rfl⟩
  | acqRequest => cases h; simp
  | acqPoll => cases h; simp
  | extract =>
    have h : execExtract s = .next t := h
    unfold execExtract at h
    split at h
    · next ls hl => cases h; simp [hl]
    · cases h
  | decode => cases h; simp
  | validate => cases h; simp
  | backoff => cases h; simp

/-- An operation that answers a next state did one of these, down to the elementary updates. -/
theorem exec_outcomes (i : Instr) (s t : State) (h : exec i s = .next t) :
  (i = .read ∧ s.rstate ≠ .attempting ∧ s.maxTries = 0 ∧ t = s.clearReading.failAtOnce) ∨
  (i = .read ∧ s.rstate ≠ .attempting ∧ s.maxTries ≠ 0 ∧ t = s.clearReading.startAttempting) ∨
  (∃ w u, encode i = .gcmd w ∧
    (((∀ p, i ≠ .pinRead p) ∧ u = s.completePort w) ∨
      (∃ p, i = .pinRead p ∧ s.phase ≠ .acqPoll ∧ w = pinReadWord p ∧ u = (s.completePort w).advanceLine)) ∧
    ((s.phase = .acqRequest ∧ s.stepNo = 6 ∧ t = u.enterPoll) ∨
     (s.phase = .acqRequest ∧ s.stepNo ≠ 6 ∧ t = u.nextStep) ∨
     (s.phase = .backoff ∧ s.tries = s.maxTries ∧ t = u.exhaust) ∨
     (s.phase = .backoff ∧ s.tries ≠ s.maxTries ∧ t = u.retry) ∨
     (s.phase ≠ .acqRequest ∧ s.phase ≠ .backoff ∧ t = u))) ∨
  (∃ p, i = .pinRead p ∧ s.phase = .acqPoll ∧ s.tlen < Config.traceDepth ∧
    let u := ((s.completePort (pinReadWord p)).advanceLine.appendSample s.lineLevel)
    ((s.lastv = false ∨ s.last ≠ s.lineLevel) ∧ t = u.markChange s.lineLevel) ∨
    (s.lastv = true ∧ s.last = s.lineLevel ∧ (s.unchanged + 1).toNat = 200 ∧ t = u.countUnchanged.endCapture) ∨
    (s.lastv = true ∧ s.last = s.lineLevel ∧ (s.unchanged + 1).toNat ≠ 200 ∧ t = u.countUnchanged)) ∨
  (i = .acqRequest ∧ t = s.issue (handshakeWord s.pin s.stepNo)) ∨
  (i = .acqPoll ∧ s.polling = true ∧ s.tlen = Config.traceDepth ∧ t = s.failAttempt .acquisitionTimeout) ∨
  (i = .acqPoll ∧ s.polling = true ∧ s.tlen ≠ Config.traceDepth ∧ t = s.issue (pinReadWord s.pin)) ∨
  (i = .acqPoll ∧ s.polling = false ∧ t = s.startCapture.issue (pinReadWord s.pin)) ∨
  (i = .extract ∧ ∃ ls, s.readTrace = .ok ls ∧ (Scan.trace s.pw ls).pcount.toNat = 40 ∧
    t = (s.storeScan (Scan.trace s.pw ls)).enterDecode) ∨
  (i = .extract ∧ ∃ ls, s.readTrace = .ok ls ∧ (Scan.trace s.pw ls).pcount.toNat ≠ 40 ∧
    t = (s.storeScan (Scan.trace s.pw ls)).failAttempt .invalidFrameLength) ∨
  (i = .decode ∧ t = s.storeDecoded) ∨
  (i = .validate ∧ frameByte s.acc 4 = frameSum s.acc ∧
    t = s.storeSum.succeed (toTenths (temperatureTenths s.acc)) (toTenths (humidityTenths s.acc))) ∨
  (i = .validate ∧ frameByte s.acc 4 ≠ frameSum s.acc ∧ t = s.storeSum.failAttempt .checksumMismatch) ∨
  (i = .backoff ∧ t = s.issue (sleepWord s.pin s.minInterval.toNat)) := by
  rcases exec_cases i s t h with
    ⟨h1, h2, h3⟩ | ⟨w, h1, h2, h3⟩ | ⟨p, h1, h2, h3⟩ | ⟨p, h1, h2, h3, h4⟩ | h | ⟨h1, h2⟩ | ⟨h1, ls, h2, h3⟩ | h |
    ⟨h1, h2⟩ | h
  · rcases s.beginRead_cases with ⟨g, g'⟩ | ⟨g, g'⟩
    · left; exact ⟨h1, h2, g, by rw [h3, g']⟩
    · right; left; exact ⟨h1, h2, g, by rw [h3, g']⟩
  · right; right; left
    refine ⟨w, _, h1, .inl ⟨h2, rfl⟩, ?_⟩
    rw [h3]; exact State.afterCommand_outcomes (s.completePort w)
  · right; right; left
    subst h1
    refine ⟨_, _, rfl, .inr ⟨p, rfl, h2, rfl, rfl⟩, ?_⟩
    rw [h3]
    have := State.afterCommand_outcomes (s.completePort (pinReadWord p)).advanceLine
    simpa using this
  · right; right; right; left
    refine ⟨p, h1, h2, h3, ?_⟩
    intro u
    rw [h4]
    simpa [u] using u.detectChange_outcomes s.lineLevel
  · simp [h]
  · rcases acqPollAt_outcomes s with ⟨g, g', g''⟩ | ⟨g, g', g''⟩ | ⟨g, g'⟩
    · have := h2.trans g''; simp [h1, g, g', this]
    · have := h2.trans g''; simp [h1, g, g', this]
    · have := h2.trans g'; simp [h1, g, this]
  · rcases (s.storeScan (Scan.trace s.pw ls)).judgeLength_cases with ⟨g, g'⟩ | ⟨g, g'⟩
    · right; right; right; right; right; right; right; right; left
      exact ⟨h1, ls, h2, g, by rw [h3, g']⟩
    · right; right; right; right; right; right; right; right; right; left
      exact ⟨h1, ls, h2, g, by rw [h3, g']⟩
  · simp [h]
  · rcases s.storeSum.judgeChecksum_cases with ⟨g, g'⟩ | ⟨g, g'⟩
    · right; right; right; right; right; right; right; right; right; right; right; left
      exact ⟨h1, g, by rw [h2, g']; rfl⟩
    · right; right; right; right; right; right; right; right; right; right; right; right; left
      exact ⟨h1, g, by rw [h2, g']⟩
  · simp [h]

/-! ## Steps -/

/-- A guarded host write that is not refused writes, and the block is not busy. -/
theorem State.guardedWrite_eq_next {u : State} {reg : RegNum} {r : Result} {t : State}
    (h : (u.guardedWrite reg r).perform = .next t) : r = .next t ∧ u.rstate ≠ .attempting := by
  by_cases hb : u.rstate = .attempting
  · rw [State.guardedWrite_busy _ _ hb] at h; cases h
  · rw [State.guardedWrite_free _ _ hb] at h; exact ⟨h, hb⟩

/-- A guarded write of one state leads to that state. -/
theorem State.guardedWrite_next_eq {u : State} {reg : RegNum} {n t : State}
    (h : (u.guardedWrite reg (.next n)).perform = .next t) : t = n := by
  cases (State.guardedWrite_eq_next h).1; rfl

/-- A command code that names no operation, if it is not refused, leaves the state as it is. -/
theorem State.otherCommand_eq_next {s t : State} {code : BitVec 8} (h : s.otherCommand code = .next t) : t = s := by
  rcases s.otherCommand_cases code with ⟨-, g⟩ | ⟨-, g⟩ <;> rw [g] at h <;> cases h; rfl

/-- A step that answers a next state performed an operation, or is one of the steps that are no operation. -/
theorem step_outcomes (s t : State) (h : step s = .next t) :
    ∃ u, (u = s ∨ ∃ rest, u = { s with env := rest }) ∧
     ((∃ i, exec i u = .next t) ∨ (∃ reg, t = u.hostRead reg) ∨ (∃ d, t = u.setPin d) ∨
      (∃ d, t = u.setMaxTries d) ∨ (∃ d, t = u.setMinInterval d) ∨ (∃ d, t = u.setPolicy d) ∨ t = u.applyReset ∨ t = u) := by
  have ctrl : ∀ u, (ctrlFetch u).perform = .next t → (∃ i, exec i u = .next t) ∨ t = u := by
    intro u h
    rcases ctrlFetch_cases u with
      ⟨w, ho, ⟨i, hd, hf⟩ | ⟨e, hd, hf⟩⟩ | ⟨ho, -, ⟨i, hd, hf⟩ | ⟨hp, hf⟩⟩ | ⟨-, hn, hf⟩
    all_goals rw [hf] at h
    · exact .inl ⟨i, h⟩
    · cases h
    · exact .inl ⟨i, h⟩
    · cases h; exact .inr rfl
    · cases h; exact .inr rfl
  cases hE : s.env with
  | nil => rw [step_nil hE] at h; refine ⟨s, .inl rfl, ?_⟩; rcases ctrl s h with h | h <;> simp [h]
  | cons e rest =>
    rw [step_cons hE] at h
    refine ⟨{ s with env := rest }, .inr ⟨rest, rfl⟩, ?_⟩
    generalize ({ s with env := rest } : State) = u at h
    cases e with
    | reset => cases h; simp
    | pass => rcases ctrl u h with h | h <;> simp [h]
    | hostRead reg => cases h; exact .inr (.inl ⟨reg, rfl⟩)
    | hostWrite reg data =>
      have h : (hostWriteRegister reg data u).perform = .next t := h
      rcases regNum_cases reg with rfl | rfl | rfl | rfl | rfl | hg
      · rcases hostWriteRegister_cmd data u with ⟨-, g⟩ | ⟨-, g⟩ <;> rw [g] at h
        · exact .inl ⟨.read, h⟩
        · simp [State.otherCommand_eq_next (State.guardedWrite_eq_next h).1]
      · exact .inr (.inr (.inl ⟨data, State.guardedWrite_next_eq h⟩))
      · exact .inr (.inr (.inr (.inl ⟨data, State.guardedWrite_next_eq h⟩)))
      · exact .inr (.inr (.inr (.inr (.inl ⟨data, State.guardedWrite_next_eq h⟩))))
      · exact .inr (.inr (.inr (.inr (.inr (.inl ⟨data, State.guardedWrite_next_eq h⟩)))))
      · rw [hostWriteRegister_other _ _ _ hg] at h; cases h; simp

/-- A step of CTRL with a command outstanding performs that command. -/
theorem step_outstanding {s : State} {w : PortWord} {i : Instr} (he : s.env = []) (ho : s.outstanding = some w)
    (hd : Sys2Proof.decode (.gcmd w) = .ok i) : step s = exec i s := by
  rw [step_nil he]
  unfold ctrlFetch
  rw [ho]
  simp only [hd]
  rfl

/-- A step of CTRL with nothing outstanding, while Attempting, performs the operation PHASE names. -/
theorem step_phase {s : State} {i : Instr} (he : s.env = []) (ho : s.outstanding = none) (hr : s.rstate = .attempting)
    (hd : Sys2Proof.decode (.phase s.phase.code) = .ok i) : step s = exec i s := by
  rw [step_nil he]
  unfold ctrlFetch
  rw [ho, if_pos (s.busy_iff.2 hr)]
  simp only [hd]
  rfl

end Sys2Proof.Machine
end

