-- ==== Sys2Proof/Laws/PerInstr.lean ====
section
/-! SUPPORT. Sys2Proof/Laws/PerInstr.lean: the family EncodesALegalWord, one lemma per constructor of Instr. -/

namespace Sys2Proof.Laws.EncodesALegalWord

/-- The code word of a well-formed operation is one the formats of 30_encoding admit. -/
def Statement (i : Instr) : Prop := i.wf = true → (encode i).wf = true

/-- Whether a word is admitted, by its three fields. -/
theorem portWordWf_portWord (op : BitVec 8) (pin : Pin) (arg : BitVec 32) :
    portWordWf (portWord op pin arg) =
      ((op == 0x01 && decide (arg.toNat ≤ 1)) || (op == 0x02 && arg == 0) || (op == 0x03 && decide (arg.toNat ≤ 1)) ||
        (op == 0x04 && arg == 0) || op == 0x05) := by
  have h1 := opOfWord_portWord op pin arg
  have h2 := argOfWord_portWord op pin arg
  unfold opOfWord at h1
  unfold argOfWord at h2
  simp only [portWordWf, h1, h2]

theorem read : Statement .read := fun _ => rfl

theorem cfgOut (pin : Pin) (level : Level) : Statement (.cfgOut pin level) := by
  intro _
  cases level <;> simp [encode, CodeWord.wf, cfgOutWord, portWordWf_portWord, levelArg, Level.bit]

theorem cfgIn (pin : Pin) : Statement (.cfgIn pin) := by
  intro _
  simp [encode, CodeWord.wf, cfgInWord, portWordWf_portWord]

theorem write (pin : Pin) (level : Level) : Statement (.write pin level) := by
  intro _
  cases level <;> simp [encode, CodeWord.wf, writeWord, portWordWf_portWord, levelArg, Level.bit]

theorem pinRead (pin : Pin) : Statement (.pinRead pin) := by
  intro _
  simp [encode, CodeWord.wf, pinReadWord, portWordWf_portWord]

theorem sleep (pin : Pin) (duration : Nat) : Statement (.sleep pin duration) := by
  intro _
  simp [encode, CodeWord.wf, sleepWord, portWordWf_portWord]

theorem acqRequest : Statement .acqRequest := fun _ => rfl

theorem acqPoll : Statement .acqPoll := fun _ => rfl

theorem extract : Statement .extract := fun _ => rfl

theorem decode : Statement .decode := fun _ => rfl

theorem validate : Statement .validate := fun _ => rfl

theorem backoff : Statement .backoff := fun _ => rfl

end Sys2Proof.Laws.EncodesALegalWord
end

