-- ==== Sys2Proof/Laws/Run.lean ====
section
/-! SUPPORT. Sys2Proof/Laws/Run.lean: runs of several steps, one step at a time, and when a
capture is settled. -/

namespace Sys2Proof.Safety

open Sys2Proof.Machine

@[simp] theorem runFor_zero (s : State) : runFor 0 s = .next s := rfl

theorem runFor_succ {k : Nat} {s t : State} (h : step s = .next t) : runFor (k + 1) s = runFor k t := by
  rw [runFor, h]

/-- A run of a + b steps is a run of a steps and then one of b. -/
theorem runFor_add {a b : Nat} {s t : State} (h : runFor a s = .next t) : runFor (a + b) s = runFor b t := by
  induction a generalizing s with
  | zero => cases h; rw [Nat.zero_add]
  | succ a ih =>
    rw [show a + 1 + b = (a + b) + 1 by omega]
    rw [runFor] at h ⊢
    cases hs : step s with
    | next u => rw [hs] at h; exact ih h
    | fault f => rw [hs] at h; cases h
    | refused r => rw [hs] at h; cases h

theorem core_run_next (m : Host.Core) {k : Nat} {s t : m.State} (h : m.step s = .next t) :
    m.run (k + 1) s = m.run k t := by
  rw [Host.Core.run, h]

theorem core_run_fault (m : Host.Core) {k : Nat} {s : m.State} {f : m.Fault} (h : m.step s = .fault f) :
    m.run (k + 1) s = .fault f := by
  rw [Host.Core.run, h]

theorem core_run_refused (m : Host.Core) {k : Nat} {s : m.State} {r : m.Refusal} (h : m.step s = .refused r) :
    m.run (k + 1) s = .refused r := by
  rw [Host.Core.run, h]

/-- `runFor` is the run of the host's interface. -/
theorem runFor_eq_core_run (k : Nat) (s : State) : runFor k s = core.run k s := by
  induction k generalizing s with
  | zero => rfl
  | succ k ih =>
    rw [runFor]
    cases hs : step s with
    | next t => exact (ih t).trans (core_run_next core hs).symm
    | fault f => exact (core_run_fault core hs).symm
    | refused r => exact (core_run_refused core hs).symm

/-! ## Captures -/

/-- Levels that end in exactly k + 1 equal samples are settled exactly when k has reached 200 (41_sampler R125). -/
theorem settled_iff_of_run {ls : List Level} {k : Nat} {c : Level} {post : List Level}
    (h : ls.reverse = List.replicate (k + 1) c ++ post) (hp : post.head? ≠ some c) : Settled ls ↔ 200 ≤ k := by
  have hl : ls = post.reverse ++ List.replicate (k+1) c := by
    have := congrArg List.reverse h; simpa using this
  constructor
  · rintro ⟨c', h'⟩
    by_contra hk
    have hr := congrArg List.reverse h'
    rw [List.reverse_drop, List.reverse_replicate, h] at hr
    have hlen : ls.length = post.length + (k+1) := by rw [hl]; simp
    have h1 := congrArg List.length hr
    simp only [List.length_take, List.length_append, List.length_replicate] at h1
    rw [show ls.length - (ls.length - 201) = 201 by omega] at hr
    have e0 := congrArg (fun l => l[0]?) hr
    have e1 := congrArg (fun l => l[k+1]?) hr
    simp only [List.getElem?_take, if_pos (show 0 < 201 by omega)] at e0
    rw [List.getElem?_append_left (by simp)] at e0
    rw [List.getElem?_replicate, List.getElem?_replicate, if_pos (by omega), if_pos (by omega), Option.some.injEq] at e0
    simp only [List.getElem?_take, if_pos (show k+1 < 201 by omega)] at e1
    rw [List.getElem?_append_right (by simp)] at e1
    rw [List.getElem?_replicate, if_pos (by omega), List.length_replicate, Nat.sub_self, ← List.head?_eq_getElem?] at e1
    apply hp; rw [e1, e0]
  · intro hk
    refine ⟨c, ?_⟩
    rw [hl]
    have : (post.reverse ++ List.replicate (k + 1) c).length - 201 = post.reverse.length + (k - 200) := by
      rw [List.length_append, List.length_replicate]; omega
    rw [this, List.drop_append]
    rw [List.drop_replicate, List.drop_eq_nil_of_le (by omega)]
    rw [show post.reverse.length + (k - 200) - post.reverse.length = k - 200 by omega, show k + 1 - (k - 200) = 201 by omega]; rfl

end Sys2Proof.Safety
end

