-- ==== Sys2Proof/Laws/Values.lean ====
section
/-! SUPPORT. Sys2Proof/Laws/Values.lean: what the functions on widths, bits and bytes compute. -/

namespace Sys2Proof.Machine

/-- The least width is one of the widths and at most each. -/
theorem leastWidth_spec (w : Nat) (ws : List Nat) :
    leastWidth (w :: ws) ∈ w :: ws ∧ ∀ x ∈ w :: ws, leastWidth (w :: ws) ≤ x := by
  unfold leastWidth
  simp only
  have : ∀ (ws : List Nat) (m : Nat),
      (ws.foldl (fun m x => if x < m then x else m) m = m ∨ ws.foldl (fun m x => if x < m then x else m) m ∈ ws) ∧
      ws.foldl (fun m x => if x < m then x else m) m ≤ m ∧
      ∀ x ∈ ws, ws.foldl (fun m x => if x < m then x else m) m ≤ x := by
    intro ws; induction ws with
    | nil => simp
    | cons a ws ih =>
      intro m
      rw [List.foldl_cons]
      obtain ⟨h1, h2, h3⟩ := ih (if a < m then a else m)
      refine ⟨?_, ?_, ?_⟩
      · rcases h1 with h1 | h1
        · rw [h1]; split <;> simp
        · right; simp [h1]
      · exact h2.trans (by split <;> omega)
      · intro x hx
        rcases List.mem_cons.1 hx with rfl | hx
        · exact h2.trans (by split <;> omega)
        · exact h3 x hx
  obtain ⟨h1, h2, h3⟩ := this ws w
  refine ⟨?_, ?_⟩
  · rcases h1 with h1 | h1
    · rw [h1]; simp
    · simp [h1]
  · intro x hx; rcases List.mem_cons.1 hx with rfl | hx
    · exact h2
    · exact h3 x hx

/-- The greatest width is one of the widths and at least each. -/
theorem greatestWidth_spec (w : Nat) (ws : List Nat) :
    greatestWidth (w :: ws) ∈ w :: ws ∧ ∀ x ∈ w :: ws, x ≤ greatestWidth (w :: ws) := by
  unfold greatestWidth
  simp only
  have : ∀ (ws : List Nat) (m : Nat),
      (ws.foldl (fun m x => if m < x then x else m) m = m ∨ ws.foldl (fun m x => if m < x then x else m) m ∈ ws) ∧
      m ≤ ws.foldl (fun m x => if m < x then x else m) m ∧
      ∀ x ∈ ws, x ≤ ws.foldl (fun m x => if m < x then x else m) m := by
    intro ws; induction ws with
    | nil => simp
    | cons a ws ih =>
      intro m
      rw [List.foldl_cons]
      obtain ⟨h1, h2, h3⟩ := ih (if m < a then a else m)
      refine ⟨?_, ?_, ?_⟩
      · rcases h1 with h1 | h1
        · rw [h1]; split <;> simp
        · right; simp [h1]
      · exact Nat.le_trans (by split <;> omega) h2
      · intro x hx
        rcases List.mem_cons.1 hx with rfl | hx
        · exact Nat.le_trans (by split <;> omega) h2
        · exact h3 x hx
  obtain ⟨h1, h2, h3⟩ := this ws w
  refine ⟨?_, ?_⟩
  · rcases h1 with h1 | h1
    · rw [h1]; simp
    · simp [h1]
  · intro x hx; rcases List.mem_cons.1 hx with rfl | hx
    · exact h2
    · exact h3 x hx

theorem accumulate_fold_getLsbD (lo hi : Nat) (ws : List Nat) (a : BitVec 40) (j : Nat) (hj : j < 40) :
   (ws.foldl (fun acc w => acc.shiftConcat (widthBit lo hi w)) a).getLsbD j =
     if j < ws.length then widthBit lo hi (ws.getD (ws.length - 1 - j) 0) else a.getLsbD (j - ws.length) := by
  induction ws generalizing a with
  | nil => simp
  | cons w ws ih =>
    rw [List.foldl_cons, ih]
    by_cases h : j < ws.length
    · rw [if_pos h, if_pos (by simp; omega)]
      simp only [List.length_cons]
      rw [show ws.length + 1 - 1 - j = (ws.length - 1 - j) + 1 by omega]
      simp
    · rw [if_neg h, BitVec.getLsbD_shiftConcat]
      by_cases h' : j = ws.length
      · subst h'; simp only [List.length_cons, Nat.sub_self, Nat.add_sub_cancel]; simp
      · simp only [List.length_cons]
        rw [if_neg (by omega)]
        rw [decide_eq_true (show j - ws.length < 40 by omega), Bool.true_and, if_neg (by omega)]
        congr 1

/-- The bit of width i lands at ACC[39 - i] (43_decoder R153). -/
theorem accumulate_getLsbD (lo hi : Nat) (pw : Vector Nat 40) (i : Nat) (h : i < 40) :
    (accumulate lo hi pw.toList).getLsbD (39 - i) = widthBit lo hi pw[i] := by
  unfold accumulate
  rw [accumulate_fold_getLsbD _ _ _ _ _ (by omega)]
  rw [if_pos (by simp; omega)]
  congr 1
  simp only [Vector.length_toList]
  rw [show 40 - 1 - (39 - i) = i by omega]
  simp [List.getD, h]

/-- The five bytes of a 40-bit value (43_decoder R154). -/
theorem frameByte_append (b0 b1 b2 b3 b4 : BitVec 8) :
    frameByte (b0 ++ b1 ++ b2 ++ b3 ++ b4) 0 = b0 ∧ frameByte (b0 ++ b1 ++ b2 ++ b3 ++ b4) 1 = b1 ∧
    frameByte (b0 ++ b1 ++ b2 ++ b3 ++ b4) 2 = b2 ∧ frameByte (b0 ++ b1 ++ b2 ++ b3 ++ b4) 3 = b3 ∧
    frameByte (b0 ++ b1 ++ b2 ++ b3 ++ b4) 4 = b4 := by
  refine ⟨?_, ?_, ?_, ?_, ?_⟩ <;>
  · apply BitVec.eq_of_getLsbD_eq
    intro i hi
    simp only [frameByte, BitVec.getLsbD_append, BitVec.getLsbD_extractLsb']
    simp only [hi, decide_true, Bool.true_and]
    repeat (first | rw [if_neg (by omega)] | rw [if_pos (by omega)])
    congr 1
    try omega

/-- A value in range keeps its value in a 13-bit register (30_encoding R94). -/
theorem toInt_toTenths (v : Int) (h1 : -4096 ≤ v) (h2 : v < 4096) : (toTenths v).toInt = v := by
  unfold toTenths
  rw [BitVec.toInt_ofInt, Int.bmod_eq_of_le] <;> norm_num <;> omega

/-- The low seven bits of a byte are its remainder modulo 128. -/
theorem low7_toNat (b : BitVec 8) : (b.extractLsb' 0 7).toNat = b.toNat % 128 := by
  rw [BitVec.extractLsb'_toNat]; simp

end Sys2Proof.Machine
end

