-- ==== Sys2Proof/Tests/Slice0.lean ====
section
/-! SUPPORT. Sys2Proof/Tests/Slice0.lean: the smoke test of WellFormed, words written out from the spec's encodings, steps
with results computed from the spec's vectors (95_test_vectors), and for every obligation with hypotheses a witness that meets
them. -/

namespace Sys2Proof.Tests

open Sys2Proof.Machine Sys2Proof.Safety

/-! ## WellFormed: an ill-formed term for each check -/

theorem test_wf_longest_sleep : (Instr.sleep 4 4294967295).wf = true := by decide

theorem test_wf_sleep_too_long : (Instr.sleep 4 4294967296).wf = false := by decide

theorem test_wf_host_code : (CodeWord.hcmd 0x01).wf = true ∧ (CodeWord.hcmd 0x02).wf = false ∧ (CodeWord.hcmd 0x00).wf = false := by
  decide

theorem test_wf_phase_code :
    (CodeWord.phase 1).wf = true ∧ (CodeWord.phase 6).wf = true ∧ (CodeWord.phase 0).wf = false ∧ (CodeWord.phase 7).wf = false := by
  decide

theorem test_wf_port_op : portWordWf 0x000400000000 = false ∧ portWordWf 0x060400000000 = false := by decide

theorem test_wf_port_arg :
    portWordWf 0x010400000002 = false ∧ portWordWf 0x020400000001 = false ∧ portWordWf 0x030480000000 = false ∧
    portWordWf 0x040400000001 = false ∧ portWordWf 0x0504FFFFFFFF = true := by
  decide

/-! ## Decoding: every constructor's word, from opcode_table.json and vectors G1 to G13 -/

theorem test_decode_read : decode (.hcmd 0x01) = .ok .read := by decide

theorem test_decode_cfgOut : decode (.gcmd 0x010400000001) = .ok (.cfgOut 4 .high) ∧
    decode (.gcmd 0x011100000001) = .ok (.cfgOut 17 .high) ∧ decode (.gcmd 0x010400000000) = .ok (.cfgOut 4 .low) := by decide

theorem test_decode_cfgIn : decode (.gcmd 0x020400000000) = .ok (.cfgIn 4) := by decide

theorem test_decode_write : decode (.gcmd 0x030400000001) = .ok (.write 4 .high) ∧
    decode (.gcmd 0x030400000000) = .ok (.write 4 .low) := by decide

theorem test_decode_pinRead : decode (.gcmd 0x040400000000) = .ok (.pinRead 4) ∧
    decode (.gcmd 0x04FF00000000) = .ok (.pinRead 255) := by decide

theorem test_decode_sleep : decode (.gcmd 0x05040007A120) = .ok (.sleep 4 500000) ∧
    decode (.gcmd 0x0504001E8480) = .ok (.sleep 4 2000000) ∧ decode (.gcmd 0x050400000000) = .ok (.sleep 4 0) ∧
    decode (.gcmd 0x0511000003E8) = .ok (.sleep 17 1000) := by decide

theorem test_decode_acqRequest : decode (.phase 0b001) = .ok .acqRequest := by decide

theorem test_decode_acqPoll : decode (.phase 0b010) = .ok .acqPoll := by decide

theorem test_decode_extract : decode (.phase 0b011) = .ok .extract := by decide

theorem test_decode_decode : decode (.phase 0b100) = .ok .decode := by decide

theorem test_decode_validate : decode (.phase 0b101) = .ok .validate := by decide

theorem test_decode_backoff : decode (.phase 0b110) = .ok .backoff := by decide

/-- 30_encoding R96: what names no operation, by name. -/
theorem test_decode_refuses : decode (.hcmd 0x00) = .error .hostNoOperation ∧ decode (.hcmd 0xFF) = .error .hostCodeReserved ∧
    decode (.gcmd 0x060400000000) = .error .portOpUndefined ∧ decode (.gcmd 0x010400000002) = .error .portArgReserved ∧
    decode (.phase 0) = .error .phaseIdle ∧ decode (.phase 7) = .error .phaseUnused := by decide

/-- 41_sampler R121, its example: the seven handshake words with PIN = 4. -/
theorem test_handshake_words :
    [handshakeWord 4 0, handshakeWord 4 1, handshakeWord 4 2, handshakeWord 4 3, handshakeWord 4 4, handshakeWord 4 5,
      handshakeWord 4 6] =
    [0x010400000001, 0x05040007A120, 0x030400000001, 0x05040000C350, 0x030400000000, 0x050400004E20, 0x020400000000] := by
  decide

/-- The table's words: 8-bit 1 is READ's, the other 3-bit values are PHASE's (log 15). -/
theorem test_table_words : decodeTableWord 8 1 = some .read ∧ decodeTableWord 3 1 = some .acqRequest ∧
    decodeTableWord 8 6 = some .backoff ∧ decodeTableWord 48 0x020400000000 = some (.cfgIn 4) ∧
    decodeTableWord 8 0xFF = none ∧ decodeTableWord 8 7 = none := by decide

/-! ## Helpers for small states -/

/-- The next state, if there is one. -/
def nextOf : Result → Option State
  | .next t => some t
  | .fault _ => none
  | .refused _ => none

/-- The trace buffer that holds these Levels from entry k on. -/
def memFrom : Nat → List Level → Memory
  | _, [] => []
  | k, l :: ls => (k, levelByte l) :: memFrom (k + 1) ls

/-- A waveform, in runs (30_encoding R101). -/
def runs : List (Nat × Level) → List Level
  | [] => []
  | (n, l) :: rest => List.replicate n l ++ runs rest

/-- The reset state, with PIN = 4, busy in a phase. -/
def inPhase (p : Phase) : State := { State.reset with pin := 4, rstate := .attempting, phase := p }

/-- A state at EXTRACT with a trace captured. -/
def withTrace (ls : List Level) : State := { inPhase .extract with trace := memFrom 0 ls, tlen := ls.length }

/-- A state at DECODE with forty widths. -/
def withWidths (f : Nat → Nat) : State := { inPhase .decode with
    pcount := 40, pw := ⟨((List.range 40).map f).toArray, by simp⟩ }

/-- A state at VALIDATE with a frame. -/
def withFrame (acc : BitVec 40) : State := { inPhase .validate with acc := acc }

theorem readByte_memFrom (k i : Nat) (ls : List Level) :
    Memory.readByte (memFrom k ls) (k + i) = (ls[i]?).map levelByte := by
  induction ls generalizing k i with
  | nil => rfl
  | cons l ls ih =>
    cases i with
    | zero => simp [memFrom, Memory.readByte]
    | succ i =>
      have := ih (k + 1) i
      rw [show k + (i + 1) = k + 1 + i by omega]
      simp only [memFrom, Memory.readByte]
      rw [if_neg (by omega), this]
      simp

theorem readTrace_memFrom (s : State) (ls : List Level) (ht : s.trace = memFrom 0 ls) (hl : s.tlen = ls.length) :
    s.readTrace = .ok ls := by
  rw [State.readTrace_eq_ok_iff]
  refine ⟨hl.symm, fun i hi => ?_⟩
  have := readByte_memFrom 0 i ls
  rw [Nat.zero_add] at this
  rw [ht, Memory.readLevel, this]
  rw [hl] at hi
  simp [hi]

/-! ## One step of each operation, results from the spec's vectors -/

/-- 95_test_vectors P1: after the write of PIN, READ starts an attempt and STATE reads 0x0005. -/
theorem test_read_starts :
    (nextOf (step { State.reset with env := [.hostWrite 0 0x00000001] })).map (fun t => (t.phase, t.stateRegister)) =
      some (.acqRequest, 0x00000005) := by decide

/-- 95_test_vectors T7 and T8: MAX_TRIES = 0. -/
theorem test_read_no_tries :
    (nextOf (exec .read { State.reset with maxTries := 0 })).map (fun t => (t.stateRegister, t.outstanding)) =
      some (0x0000000B, none) ∧
    (nextOf (exec .read { State.reset with maxTries := 0, raise := true })).map (fun t => t.stateRegister) =
      some 0x00000023 := by decide

/-- 41_sampler R121: STEP 1 is SLEEP(T_SETTLE). -/
theorem test_acqRequest_issues :
    (nextOf (exec .acqRequest { inPhase .acqRequest with stepNo := 1 })).map (fun t => t.outstanding) =
      some (some 0x05040007A120) := by decide

theorem test_cfgOut_advances :
    (nextOf (exec (.cfgOut 4 .high) (inPhase .acqRequest))).map (fun t => (t.stepNo, pinLeft 4 t.portLog)) =
      some (1, .output .high) := by decide

theorem test_write_drives :
    (nextOf (exec (.write 4 .low)
        { inPhase .acqRequest with stepNo := 4, portLog := [.completed 0x010400000001] })).map
      (fun t => (t.stepNo, pinLeft 4 t.portLog)) = some (5, .output .low) := by decide

theorem test_cfgIn_ends_the_handshake :
    (nextOf (exec (.cfgIn 4) { inPhase .acqRequest with stepNo := 6 })).map
      (fun t => (t.stepNo, t.phase, pinLeft 4 t.portLog)) = some (0, .acqPoll, .input) := by decide

/-- 45_retry R173, 95_test_vectors T6: the delay after the last failure, then Failed. -/
theorem test_sleep_exhausts :
    (nextOf (exec (.sleep 4 2000000) { inPhase .backoff with tries := 1, maxTries := 1 })).map
      (fun t => (t.stateRegister, t.phase)) = some (0x0000010B, .idle) := by decide

theorem test_sleep_retries :
    (nextOf (exec (.sleep 4 2000000) { inPhase .backoff with tries := 1 })).map
      (fun t => (t.stateRegister, t.phase, t.stepNo)) = some (0x00000105, .acqRequest, 0) := by decide

/-- 41_sampler R123: the entry of a capture. -/
theorem test_acqPoll_starts :
    (nextOf (exec .acqPoll { inPhase .acqPoll with tlen := 9, unchanged := 7, lastv := true })).map
      (fun t => (t.tlen, t.unchanged, t.lastv, t.outstanding)) = some (0, 0, false, some 0x040400000000) := by decide

/-- The polls of one capture, each a PIN_READ that completes. -/
def pollLine : List Level → State → Option State
  | [], s => some s
  | l :: ls, s =>
    match nextOf (exec (.pinRead 4) { s with line := [l] }) with
    | some t => pollLine ls t
    | none => none

/-- 95_test_vectors A3: UNCHANGED after the first four polls of H, H, L, L is 0, 1, 0, 1. -/
theorem test_pinRead_unchanged :
    let s := { inPhase .acqPoll with polling := true }
    (pollLine [.high] s).map (fun t => (t.unchanged, t.last)) = some (0, .high) ∧
    (pollLine [.high, .high] s).map (fun t => (t.unchanged, t.last)) = some (1, .high) ∧
    (pollLine [.high, .high, .low] s).map (fun t => (t.unchanged, t.last)) = some (0, .low) ∧
    (pollLine [.high, .high, .low, .low] s).map (fun t => (t.unchanged, t.tlen)) = some (1, 4) := by decide

/-- 41_sampler R125: the poll that makes UNCHANGED 200 ends the capture; the one before does not. -/
theorem test_pinRead_stops :
    let s := { inPhase .acqPoll with polling := true, lastv := true, last := .high, line := [.high] }
    (nextOf (exec (.pinRead 4) { s with unchanged := 199 })).map (fun t => (t.unchanged, t.phase)) = some (200, .extract) ∧
    (nextOf (exec (.pinRead 4) { s with unchanged := 198 })).map (fun t => (t.unchanged, t.phase)) = some (199, .acqPoll) := by
  decide

/-- 95_test_vectors X7 and X8. -/
theorem test_extract_widths :
    (nextOf (exec .extract (withTrace (runs [(1, .low), (2, .high), (8, .low), (8, .high), (5, .low), (3, .high), (5, .low),
      (8, .high), (3, .low)])))).map (fun t => (t.pcount, t.pw.toList.take 3, t.att)) =
      some (3, [8, 3, 8], .invalidFrameLength) ∧
    (nextOf (exec .extract (withTrace (runs [(5, .high), (4, .low), (1, .high), (4, .low), (1, .high), (4, .low), (4, .high),
      (1, .low), (4, .high), (3, .low), (7, .high)])))).map (fun t => (t.pcount, t.pw.toList.take 3, t.phase)) =
      some (3, [1, 4, 4], .backoff) := by decide +kernel

/-- 42_extractor R148 g, h: forty and forty-one pulses. -/
theorem test_extract_lengths :
    (nextOf (exec .extract (withTrace (markedTrace 0 0 0 0 (List.replicate 40 (0, 0)) .low 0)))).map
      (fun t => (t.pcount, t.phase)) = some (40, .decode) ∧
    (nextOf (exec .extract (withTrace (markedTrace 0 0 0 0 (List.replicate 41 (0, 0)) .low 0)))).map
      (fun t => (t.pcount, t.phase)) = some (41, .backoff) := by decide +kernel

/-- 95_test_vectors B1 and B9. -/
theorem test_decode_frames :
    (nextOf (exec .decode (withWidths fun i => if i < 20 then 10 else 50))).map (fun t => (t.wmin, t.wmax, t.acc)) =
      some (10, 50, 0x00000FFFFF) ∧
    (nextOf (exec .decode (withWidths fun i => if i % 3 = 0 then 3 else if i % 3 = 1 then 5 else 4))).map
      (fun t => (t.wmin, t.wmax, t.acc)) = some (3, 5, 0x4924924924) := by decide +kernel

/-- 95_test_vectors B6 and B7: the ends of ACC. -/
theorem test_decode_ends :
    (nextOf (exec .decode (withWidths fun i => if i = 39 then 4 else 3))).map (fun t => t.acc) = some 0x0000000001 ∧
    (nextOf (exec .decode (withWidths fun i => if i = 0 then 4 else 3))).map (fun t => t.acc) = some 0x8000000000 := by decide +kernel

/-- What the HOST reads of the Reading after VALIDATE. -/
def readingAfter (acc : BitVec 40) : Option (RState × HostWord × HostWord) :=
  (nextOf (exec .validate (withFrame acc))).map (fun t => (t.rstate, t.hostReadValue 8, t.hostReadValue 7))

/-- 95_test_vectors V1, V2, V4, V7, V9 and V10. -/
theorem test_validate_accepts :
    readingAfter 0x2802170546 = some (.succeeded, 0x00000192, 0x000000EB) ∧
    readingAfter 0x32001985D0 = some (.succeeded, 0x000001F4, 0xFFFFFF01) ∧
    readingAfter 0xC86400002C = some (.succeeded, 2100, 0) ∧
    readingAfter 0x0000008080 = some (.succeeded, 0, 0) ∧
    readingAfter 0xFFFFFF7F7C = some (.succeeded, 2805, 2677) ∧
    readingAfter 0x0000FFFFFE = some (.succeeded, 0, 0xFFFFF58B) := by decide

/-- 95_test_vectors V3, V6 and V11: the sentinel stays. -/
theorem test_validate_rejects :
    readingAfter 0x2802170547 = some (.attempting, 0xFFFFFFF6, 0xFFFFFFF6) ∧
    readingAfter 0xFFFFFFFFFF = some (.attempting, 0xFFFFFFF6, 0xFFFFFFF6) ∧
    readingAfter 0x3200198550 = some (.attempting, 0xFFFFFFF6, 0xFFFFFFF6) := by decide

/-- 45_retry R173, its example: 0x0504001E8480. -/
theorem test_backoff_issues :
    (nextOf (exec .backoff (inPhase .backoff))).map (fun t => t.outstanding) = some (some 0x0504001E8480) := by decide

/-! ## The table's words run as the first operation after reset -/

theorem test_first_phase : (nextOf (step (State.reset.withFetchWord 8 2))).map (fun t => t.outstanding) =
    some (some 0x040000000000) := by decide

theorem test_first_port_word : (nextOf (step (State.reset.withFetchWord 48 0x010400000001))).map (fun t => t.portLog) =
    some [.completed 0x010400000001] := by decide

theorem test_first_host_code : (nextOf (step (State.reset.withFetchWord 8 1))).map (fun t => t.rstate) =
    some .attempting := by decide

/-! ## Witnesses: concrete states and operands that meet the hypotheses of each obligation -/

/-! ### Encoding and the step -/

theorem test_witness_DecodeOfEncode :
    (Instr.sleep 255 4294967295).wf = true ∧ (Instr.cfgOut 0 .low).wf = true ∧ Instr.read.wf = true := by decide

theorem test_witness_EncodeOfDecode : decode (.gcmd 0x0504FFFFFFFF) = .ok (.sleep 4 4294967295) := by decide

theorem test_witness_StepRunsTheNamedOperation_word :
    let s := { inPhase .acqRequest with outstanding := some 0x010400000001, env := [.pass] }
    (∃ rest, s.env = .pass :: rest ∧ { s with env := [] } = { s with env := rest }) ∧
    s.outstanding = some 0x010400000001 ∧ decode (.gcmd 0x010400000001) = .ok (.cfgOut 4 .high) :=
  ⟨⟨[], rfl, rfl⟩, rfl, by decide⟩

theorem test_witness_StepRunsTheNamedOperation_phase :
    let s := inPhase .extract
    s.env = [] ∧ s.outstanding = none ∧ s.rstate = .attempting ∧ decode (.phase s.phase.code) = .ok .extract := by decide

theorem test_witness_StepRunsTheNamedOperation_command :
    let s := { State.reset with env := [.hostWrite 0 0xFFFFFF01] }
    s.env = .hostWrite 0 0xFFFFFF01 :: [] ∧ decode (.hcmd ((0xFFFFFF01 : HostWord).extractLsb' 0 8)) = .ok .read := by decide

theorem test_witness_BlockWaitsInIdle :
    State.reset.env = [] ∧ State.reset.outstanding = none ∧ State.reset.rstate ≠ .attempting := by decide

theorem test_witness_ResetEventClearsTheBlock :
    let s := { inPhase .acqPoll with outstanding := some 0x040400000000, env := [.reset, .pass] }
    s.env = .reset :: [.pass] := rfl

/-! ### READ and the port commands -/

theorem test_witness_ReadStartsAnAttempt :
    let s := { State.reset with rstate := .failed, maxTries := 255 }
    let r := { State.reset with rstate := .succeeded, maxTries := 1 }
    s.rstate ≠ .attempting ∧ s.maxTries ≠ 0 ∧ r.rstate ≠ .attempting ∧ r.maxTries ≠ 0 := by decide

theorem test_witness_ReadWithNoTriesFails :
    let s := { State.reset with maxTries := 0 }
    s.rstate ≠ .attempting ∧ s.maxTries = 0 := by decide

theorem test_witness_ReadWhileBusyRefused : (inPhase .backoff).rstate = .attempting := rfl

theorem test_witness_PortCommandAdvancesTheHandshake :
    let s := { inPhase .acqRequest with stepNo := 6 }
    encode (.cfgIn 4) = .gcmd 0x020400000000 ∧ (∀ p, Instr.cfgIn 4 ≠ .pinRead p) ∧ s.phase = .acqRequest ∧
    encode (.sleep 4 20000) = .gcmd 0x050400004E20 ∧ (∀ p, Instr.sleep 4 20000 ≠ .pinRead p) :=
  ⟨by decide, nofun, rfl, by decide, nofun⟩

theorem test_witness_SleepEndsBackoff :
    let s := { inPhase .backoff with tries := 10 }
    let r := { inPhase .backoff with tries := 9 }
    s.phase = .backoff ∧ s.tries = s.maxTries ∧ r.phase = .backoff ∧ r.tries ≠ r.maxTries := by decide

theorem test_witness_PortCommandElsewhereOnlyCompletes :
    encode (.write 4 .high) = .gcmd 0x030400000001 ∧ (∀ p, Instr.write 4 .high ≠ .pinRead p) ∧
    (inPhase .validate).phase ≠ .acqRequest ∧ (inPhase .validate).phase ≠ .backoff :=
  ⟨by decide, nofun, by decide, by decide⟩

/-! ### The capture -/

theorem test_witness_AcqPollStartsPollsOrTimesOut :
    (inPhase .acqPoll).polling = false ∧
    (let s := { inPhase .acqPoll with polling := true }; s.polling = true ∧ s.tlen ≠ Config.traceDepth) ∧
    (let s := { inPhase .acqPoll with polling := true, tlen := Config.traceDepth }; s.polling = true ∧ s.tlen = Config.traceDepth) :=
  ⟨rfl, ⟨rfl, by decide⟩, rfl, rfl⟩

theorem test_witness_PinReadAppendsAndDetects :
    (let s := { inPhase .acqPoll with polling := true, line := [.high] };
      s.phase = .acqPoll ∧ s.tlen < Config.traceDepth ∧ s.line = .high :: [] ∧ s.lastv = false) ∧
    (let s := { inPhase .acqPoll with
        polling := true, tlen := Config.traceDepth - 1, line := [], lastv := true, last := Config.lineLevel 0, unchanged := 199 };
      s.phase = .acqPoll ∧ s.tlen < Config.traceDepth ∧ s.line = [] ∧ (s.unchanged + 1).toNat = 200) := by
  refine ⟨⟨rfl, by decide, rfl, rfl⟩, rfl, ?_, rfl, by decide⟩
  show Config.traceDepth - 1 < Config.traceDepth
  unfold Config.traceDepth
  omega

theorem test_witness_PinReadElsewhereStoresNothing :
    (inPhase .backoff).phase ≠ .acqPoll ∧ (inPhase .acqRequest).phase ≠ .acqPoll ∧ (inPhase .decode).phase ≠ .acqPoll ∧
    (inPhase .backoff).line = [] ∧ { inPhase .idle with line := [.high] }.line = .high :: [] := by decide

theorem test_witness_HandshakeRunSendsSevenCommands :
    let s := inPhase .acqRequest
    s.env = [] ∧ s.outstanding = none ∧ s.rstate = .attempting ∧ s.phase = .acqRequest ∧ s.stepNo = 0 := by decide

/-- Whether Levels that go on from a run of k samples at c are settled at their end and nowhere before. -/
def settlesAtEnd : Level → Nat → List Level → Bool
  | _, k, [] => k == 201
  | c, k, l :: ls => decide (k < 201) && (if l = c then settlesAtEnd c (k + 1) ls else settlesAtEnd l 1 ls)

theorem complete_of_settlesAtEnd (ls : List Level) : ∀ (pre post : List Level) (c : Level) (k : Nat),
    pre.reverse = List.replicate (k + 1) c ++ post → post.head? ≠ some c →
    (∀ n, n < pre.length → ¬ Settled (pre.take n)) → settlesAtEnd c (k + 1) ls = true → CompleteCapture (pre ++ ls) := by
  induction ls with
  | nil =>
    intro pre post c k h hp hn hs
    rw [List.append_nil]
    have hk : k = 200 := by simpa [settlesAtEnd] using hs
    exact ⟨(settled_iff_of_run h hp).2 (by omega), hn⟩
  | cons l ls ih =>
    intro pre post c k h hp hn hs
    rw [settlesAtEnd, Bool.and_eq_true, decide_eq_true_iff] at hs
    have hpre : ∀ n, n < (pre ++ [l]).length → ¬ Settled ((pre ++ [l]).take n) := by
      intro n hn'
      rw [List.length_append, List.length_singleton] at hn'
      rw [List.take_append_of_le_length (by omega)]
      by_cases he : n = pre.length
      · rw [he, List.take_length]
        exact fun hset => absurd ((settled_iff_of_run h hp).1 hset) (by omega)
      · exact hn n (by omega)
    rw [show pre ++ l :: ls = (pre ++ [l]) ++ ls by simp]
    by_cases hl : l = c
    · subst hl
      exact ih (pre ++ [l]) post l (k + 1) (by rw [List.reverse_append, h]; rfl) hp hpre (by simpa using hs.2)
    · refine ih (pre ++ [l]) pre.reverse l 0 (by simp) ?_ hpre (by simpa [hl] using hs.2)
      rw [h]
      simpa [List.replicate_succ] using fun hh => hl hh.symm

theorem complete_cons (l : Level) (ls : List Level) (h : settlesAtEnd l 1 ls = true) : CompleteCapture (l :: ls) := by
  refine complete_of_settlesAtEnd ls [l] [] l 0 rfl (by simp) ?_ h
  intro n hn hs
  obtain ⟨c, hs⟩ := hs
  have hn : n = 0 := by simpa using hn
  subst hn
  have hl := congrArg List.length hs
  rw [List.length_replicate] at hl
  simp at hl

/-- 95_test_vectors A1 and A4: 201 equal samples; and 200, a change, 201. -/
theorem test_witness_CompleteCapture : CompleteCapture (List.replicate 201 .high) ∧
    CompleteCapture (runs [(200, .high), (1, .low), (201, .high)]) := by
  refine ⟨?_, ?_⟩
  · have h : List.replicate 201 Level.high = .high :: List.replicate 200 .high :=
      List.replicate_succ (n := 200)
    rw [h]
    exact complete_cons _ _ (by decide +kernel)
  · have h : runs [(200, .high), (1, .low), (201, .high)] = .high :: runs [(199, .high), (1, .low), (201, .high)] := by
      decide +kernel
    rw [h]
    exact complete_cons _ _ (by decide +kernel)

theorem traceDepth_ge : 201 ≤ Config.traceDepth := Nat.le_add_left _ _

theorem test_witness_CaptureRunRecordsTheLine :
    let levels := List.replicate 201 Level.high
    let s := { inPhase .acqPoll with line := levels ++ [Level.low] }
    s.env = [] ∧ s.outstanding = none ∧ s.rstate = .attempting ∧ s.phase = .acqPoll ∧ s.polling = false ∧
    s.line = levels ++ [Level.low] ∧ CompleteCapture levels ∧ levels.length ≤ Config.traceDepth :=
  ⟨rfl, rfl, rfl, rfl, rfl, rfl, test_witness_CompleteCapture.1, by rw [List.length_replicate]; exact traceDepth_ge⟩

/-- High, Low, High, Low, ... (95_test_vectors A6). -/
def restless : Nat → List Level
  | 0 => []
  | 1 => [.high]
  | n + 2 => .high :: .low :: restless n

theorem restless_length (n : Nat) : (restless n).length = n := by
  induction n using restless.induct <;> simp_all [restless]

theorem restless_pair (n i : Nat) (h : i + 1 < n) : (restless n)[i]? ≠ (restless n)[i + 1]? := by
  induction n using restless.induct generalizing i with
  | case1 => omega
  | case2 => omega
  | case3 n ih =>
    match i with
    | 0 => simp [restless]
    | 1 =>
      match n with
      | 0 => omega
      | 1 => simp [restless]
      | n + 2 => simp [restless]
    | i + 2 => simpa [restless] using ih i (by omega)

theorem restless_unsettled (m n : Nat) : ¬ Settled ((restless m).take n) := by
  rintro ⟨c, h⟩
  have hl := congrArg List.length h
  rw [List.length_drop, List.length_replicate] at hl
  have hm : ((restless m).take n).length ≤ m := by rw [List.length_take, restless_length]; omega
  have hn : ((restless m).take n).length ≤ n := by rw [List.length_take]; omega
  generalize hk : ((restless m).take n).length - 201 = k at h hl
  have e0 := congrArg (fun l => l[0]?) h
  have e1 := congrArg (fun l => l[1]?) h
  simp only [List.getElem?_drop, List.getElem?_replicate] at e0 e1
  rw [List.getElem?_take, if_pos (by omega), if_pos (by omega)] at e0 e1
  exact restless_pair m k (by omega) (by rw [Nat.add_zero] at e0; rw [e0, e1])

theorem test_witness_CaptureRunTimesOutOnARestlessLine :
    let levels := restless Config.traceDepth
    let s := { inPhase .acqPoll with line := levels ++ [Level.low] }
    s.env = [] ∧ s.outstanding = none ∧ s.rstate = .attempting ∧ s.phase = .acqPoll ∧ s.polling = false ∧
    s.line = levels ++ [Level.low] ∧ levels.length = Config.traceDepth ∧
    ∀ n, n ≤ levels.length → ¬ Settled (levels.take n) :=
  ⟨rfl, rfl, rfl, rfl, rfl, rfl, restless_length _, fun n _ => restless_unsettled _ n⟩

/-! ### From EXTRACT to the Reading -/

/-- The empty trace, a trace with a marker and one pulse, and a trace with forty pulses. -/
theorem test_witness_ExtractMeasuresThePulseWidths :
    (inPhase .extract).readTrace = .ok [] ∧
    (withTrace [.low, .high, .low, .high, .low]).readTrace = .ok [.low, .high, .low, .high, .low] ∧
    pulseWidths [.low, .high, .low, .high, .low] = [1] ∧
    (pulseWidths (markedTrace 0 0 0 0 (List.replicate 40 (0, 0)) .low 0)).length = 40 ∧
    (withTrace (markedTrace 0 0 0 0 (List.replicate 40 (0, 0)) .low 0)).readTrace =
      .ok (markedTrace 0 0 0 0 (List.replicate 40 (0, 0)) .low 0) :=
  ⟨rfl, readTrace_memFrom _ _ rfl rfl, by decide, by decide +kernel, readTrace_memFrom _ _ rfl rfl⟩

theorem test_witness_ExtractYieldsFortyCleanPulses :
    let pulses : List (Nat × Nat) := List.replicate 40 (2, 4)
    pulses.length = 40 ∧
    (withTrace (markedTrace 2 7 7 4 pulses .high 201)).readTrace = .ok (markedTrace 2 7 7 4 pulses .high 201) :=
  ⟨rfl, readTrace_memFrom _ _ rfl rfl⟩

theorem test_witness_ExtractRejectsAConstantLine :
    (inPhase .extract).readTrace = .ok (List.replicate 0 .low) ∧
    (withTrace (List.replicate 201 .high)).readTrace = .ok (List.replicate 201 .high) :=
  ⟨rfl, readTrace_memFrom _ _ rfl rfl⟩

theorem test_witness_EqualWidthsDecodeToTheZeroFrame :
    (withWidths fun _ => 7).pw.toList = List.replicate 40 7 := by decide +kernel

theorem test_witness_DecodeIgnoresThePollRate :
    0 < 3 ∧ (Vector.replicate 40 6).toList = (withWidths fun _ => 2).pw.toList.map (fun w => 3 * w) := by decide +kernel

/-- The two clusters 10 to 12 and 50 to 51, alternating. -/
theorem test_witness_DecodeSeparatesTwoClusters :
    let s := withWidths fun i => if i % 2 = 0 then 10 + i % 3 else 50 + i % 4 / 3
    10 ≤ 12 ∧ 12 < 50 ∧ 12 - 10 < 50 - 12 ∧ 51 - 50 < 50 - 12 ∧
    (0x5555555555 : BitVec 40) ≠ 0 ∧ (0x5555555555 : BitVec 40) ≠ BitVec.allOnes 40 ∧
    ∀ (i : Nat) (h : i < 40), if (0x5555555555 : BitVec 40).getLsbD (39 - i) then 50 ≤ s.pw[i] ∧ s.pw[i] ≤ 51
      else 10 ≤ s.pw[i] ∧ s.pw[i] ≤ 12 := by
  decide +kernel

/-- 95_test_vectors V1 and V10. -/
theorem test_witness_ValidateAcceptsAndDerives :
    (withFrame 0x2802170546).acc = 40#8 ++ 2#8 ++ 23#8 ++ 5#8 ++ 70#8 ∧
    (70#8).toNat = ((40#8).toNat + (2#8).toNat + (23#8).toNat + (5#8).toNat) % 256 ∧
    (withFrame 0x0000FFFFFE).acc = 0#8 ++ 0#8 ++ 0xFF#8 ++ 0xFF#8 ++ 0xFE#8 ∧
    (0xFE#8).toNat = ((0#8).toNat + (0#8).toNat + (0xFF#8).toNat + (0xFF#8).toNat) % 256 := by decide

/-- 95_test_vectors V3. -/
theorem test_witness_ValidateRejectsOtherChecksums :
    (withFrame 0x2802170547).acc = 40#8 ++ 2#8 ++ 23#8 ++ 5#8 ++ 71#8 ∧
    (71#8).toNat ≠ ((40#8).toNat + (2#8).toNat + (23#8).toNat + (5#8).toNat) % 256 := by decide

theorem test_witness_ExactlyOneChecksumIsAccepted : (withFrame 0).rstate ≠ .succeeded := by decide

/-- Each of the three failure classes. -/
theorem test_witness_AttemptFailureTouchesOnlyTries :
    (∃ t, exec .acqPoll { inPhase .acqPoll with polling := true, tlen := Config.traceDepth } = .next t ∧
      t.phase = .backoff) ∧
    (∃ t, exec .extract (inPhase .extract) = .next t ∧ t.phase = .backoff) ∧
    (∃ t, exec .validate (withFrame 0x2802170547) = .next t ∧ t.phase = .backoff) ∧
    (inPhase .acqPoll).phase ≠ .backoff ∧ (inPhase .extract).phase ≠ .backoff ∧ (withFrame 0).phase ≠ .backoff := by
  refine ⟨⟨_, rfl, ?_⟩, ⟨_, rfl, by decide⟩, ⟨_, rfl, by decide⟩, by decide, by decide, by decide⟩
  rw [acqPollAt, if_pos rfl, State.pollHead, if_pos rfl]
  rfl

theorem test_witness_BackoffRunSleepsThenRetriesOrEnds :
    let s := { inPhase .backoff with tries := 10 }
    s.env = [] ∧ s.outstanding = none ∧ s.rstate = .attempting ∧ s.phase = .backoff ∧ s.tries = s.maxTries ∧
    (inPhase .backoff).tries ≠ (inPhase .backoff).maxTries := by decide

/-! ### What an operation may write: an operation of each shape that answers a next state -/

theorem test_witness_TriesCountsFailedAttempts :
    (∃ t, exec .read State.reset = .next t ∧ t.tries = 0) ∧
    (∃ t, exec .extract (inPhase .extract) = .next t ∧ t.tries = 1) ∧
    (∃ t, exec (.cfgIn 4) { inPhase .acqRequest with tries := 3 } = .next t ∧ t.tries = 3) :=
  ⟨⟨_, rfl, by decide⟩, ⟨_, rfl, by decide⟩, ⟨_, rfl, by decide⟩⟩

theorem test_witness_OperationsNeverWriteTheConfiguration :
    ∃ t, exec .decode (withWidths fun i => i + 1) = .next t := ⟨_, rfl⟩

theorem test_witness_ReadingWrittenOnlyAtTheEnds :
    (∃ t, exec .validate (withFrame 0x2802170546) = .next t ∧ t.rstate = .succeeded) ∧ Instr.validate ≠ .read ∧
    (∃ t, exec (.sleep 4 0) { inPhase .backoff with tries := 10 } = .next t ∧ t.rstate = .failed) ∧
    Instr.sleep 4 0 ≠ .read :=
  ⟨⟨_, rfl, by decide⟩, by decide, ⟨_, rfl, by decide⟩, by decide⟩

theorem test_witness_TraceWrittenOnlyByAPoll :
    (∃ t, exec .backoff (inPhase .backoff) = .next t) ∧
    (∃ t, exec (.pinRead 4) (inPhase .acqPoll) = .next t) ∧
    ¬ ((∃ p, Instr.pinRead 4 = .pinRead p) ∧ (inPhase .acqPoll).phase = .acqPoll ∧ 1 = (inPhase .acqPoll).tlen) := by
  refine ⟨⟨_, rfl⟩, ?_, fun h => absurd h.2.2 (by decide)⟩
  have h : exec (.pinRead 4) (inPhase .acqPoll) = pinReadAt Config.traceDepth 4 (inPhase .acqPoll) := rfl
  rw [h, pinReadAt_polling _ _ _ rfl]
  exact ⟨_, (State.takeSample_eq_next_iff _ _ _ _).2 ⟨by decide, rfl⟩⟩

theorem test_witness_PortHearsExactlyTheCommands :
    (∃ t, exec (.write 4 .low) (inPhase .acqRequest) = .next t) ∧ encode (.write 4 .low) = .gcmd 0x030400000000 ∧
    (∃ t, exec .acqRequest (inPhase .acqRequest) = .next t) ∧ ∀ w, encode .acqRequest ≠ .gcmd w :=
  ⟨⟨_, rfl⟩, by decide, ⟨_, rfl⟩, nofun⟩

/-- The three ends of BUSY. -/
theorem test_witness_BusyEndsOnlyAtAnOutcome :
    (nextOf (step (withFrame 0x2802170546))).map (fun t => t.rstate) = some .succeeded ∧
    (nextOf (step { inPhase .backoff with tries := 10, outstanding := some 0x0504001E8480 })).map (fun t => t.rstate) =
      some .failed ∧
    (nextOf (step { inPhase .acqPoll with env := [.reset] })).map (fun t => t.rstate) = some .idle ∧
    (withFrame 0x2802170546).rstate = .attempting ∧ (inPhase .backoff).rstate = .attempting := by decide

/-- 95_test_vectors W1. -/
def waveW1 : List Level := markedTrace 2 7 7 4 (framePulses 2 7 4 (40#8 ++ 2#8 ++ 23#8 ++ 5#8 ++ 70#8)) .high 201

/-- 95_test_vectors: W1 has 604 samples, and its first ones are H2 L8 H8 L5 H3 L5. -/
theorem test_waveW1 : waveW1.length = 604 ∧
    waveW1.take 31 = runs [(2, .high), (8, .low), (8, .high), (5, .low), (3, .high), (5, .low)] := by decide +kernel

theorem test_witness_GoodFrameRunSucceeds :
    let s := withTrace waveW1
    2 < 7 ∧ (70#8).toNat = ((40#8).toNat + (2#8).toNat + (23#8).toNat + (5#8).toNat) % 256 ∧
    s.env = [] ∧ s.outstanding = none ∧ s.rstate = .attempting ∧ s.phase = .extract ∧ s.readTrace = .ok waveW1 :=
  ⟨by decide, by decide, rfl, rfl, rfl, rfl, readTrace_memFrom _ _ rfl rfl⟩

theorem waveW1_complete : CompleteCapture waveW1 := by
  have h : waveW1 = .high :: waveW1.tail := by decide +kernel
  rw [h]
  exact complete_cons .high waveW1.tail (by decide +kernel)

/-- 95_test_vectors P1. Whichever TRACE_DEPTH is, one of the two clauses speaks of this run. -/
theorem test_witness_ReadOfAGoodFirstCapture :
    let s := { State.reset with pin := 4, env := [.hostWrite 0 0x00000001], line := waveW1 ++ [Level.low] }
    2 < 7 ∧ (70#8).toNat = ((40#8).toNat + (2#8).toNat + (23#8).toNat + (5#8).toNat) % 256 ∧
    waveW1 = markedTrace 2 7 7 4 (framePulses 2 7 4 (40#8 ++ 2#8 ++ 23#8 ++ 5#8 ++ 70#8)) .high 201 ∧
    CompleteCapture waveW1 ∧ s.rstate ≠ .attempting ∧ s.maxTries ≠ 0 ∧ s.polling = false ∧ s.outstanding = none ∧
    (0x00000001 : HostWord).extractLsb' 0 8 = 0x01#8 ∧ s.env = [.hostWrite 0 0x00000001] ∧
    s.line = waveW1 ++ [Level.low] :=
  ⟨by decide, by decide, by rw [waveW1], waveW1_complete, nofun, by decide, rfl, rfl, by decide, rfl, rfl⟩

/-! ### The host interface -/

/-- A sound state of each RSTATE: with PIN written, at the start of an attempt with one failure behind it, with the Reading of
V2, and exhausted with RAISE = 1. -/
def soundIdle : State := { State.reset with pin := 4 }

def soundAttempting : State := { inPhase .acqRequest with tries := 1 }

def soundSucceeded : State :=
  { State.reset with rstate := .succeeded, tries := 2, status := .ok, temperature := -255, humidity := 500 }

def soundFailed : State := { State.reset with rstate := .failed, tries := 10, raise := true }

theorem sound_of_idle_capture (s : State) (hp : s.phase = .idle ∨ s.phase = .acqRequest) (ht : s.trace = []) (hl : s.tlen = 0)
    (hpo : s.polling = false) (ho : s.outstanding = none) (hu : s.unchanged = 0) (hr : s.run = 0) (hw : s.wmin = 0)
    (hx : s.wmax = 0) (hpc : s.pcount = 0) (hpw : s.pw = Vector.replicate 40 0)
    (hseq : (s.phase ≠ .idle ↔ s.rstate = .attempting) ∧ s.stepNo = 0) (hret : RetryInv s) (hres : ResultInv s) :
    Sound s where
  sequencer := ⟨hseq.1, fun _ => hseq.2, by simp [hpo], by simp [ho]⟩
  capture := by
    refine ⟨by rw [ht]; rfl, by simp [ht], by omega, ?_, by simp [hpo], by simp [hu], by simp [hpo], by simp [hpo]⟩
    intro _ i hi
    omega
  retry := hret
  result := hres
  counters := by
    refine ⟨by simp [hpc], by omega, by omega, by omega, by simp [hpw], ?_⟩
    intro h
    rcases hp with hp | hp <;> rw [hp] at h <;> cases h
  pinInput := by
    refine ⟨fun h => ?_⟩
    rcases hp with hp | hp <;> rw [hp] at h <;> cases h

/-- The hypothesis of StateRegisterTakesOnlyTheseValues, ValidMeansSucceeded, SoundStatesNeverFault and CountsFitTheirWidth, in
each RSTATE. -/
theorem test_witness_Sound :
    Sound soundIdle ∧ Sound soundAttempting ∧ Sound soundSucceeded ∧ Sound soundFailed := by
  refine ⟨?_, ?_, ?_, ?_⟩ <;>
    refine sound_of_idle_capture _ (by decide) rfl rfl rfl rfl rfl rfl rfl rfl rfl rfl ?_ ?_ ?_ <;>
    first
      | decide
      | exact ⟨by decide, by decide, by decide⟩
      | exact ⟨by decide, by decide, by decide, by decide, by decide⟩

/-- The five kinds of value of STATE: 0x0000, 0x0105, 0x021A, 0x0A23 and 0x0A0B. -/
theorem test_state_values : soundIdle.stateRegister = 0 ∧ soundAttempting.stateRegister = 0x0105 ∧
    soundSucceeded.stateRegister = 0x021A ∧ soundFailed.stateRegister = 0x0A23 ∧
    { soundFailed with raise := false }.stateRegister = 0x0A0B := by decide

theorem test_witness_HostReadHasNoSideEffect :
    { inPhase .acqPoll with env := [.hostRead 5] }.env = .hostRead 5 :: [] := rfl

theorem test_witness_ConfigurationWriteReadsBack :
    let s := { State.reset with env := [.hostWrite 4 0xFFFFFFFF] }
    s.rstate ≠ .attempting ∧ (4#4 : RegNum) ∈ [1#4, 2#4, 3#4, 4#4] ∧ (1#4 : RegNum) ∈ [1#4, 2#4, 3#4, 4#4] ∧
    s.env = .hostWrite 4 0xFFFFFFFF :: [] := by decide

theorem test_witness_HostWriteWhileBusyRefused :
    let s := { inPhase .acqPoll with env := [.hostWrite 0 1] }
    let r := { inPhase .acqPoll with env := [.hostWrite 4 1] }
    s.rstate = .attempting ∧ (0 : RegNum).toNat ≤ 4 ∧ s.env = .hostWrite 0 1 :: [] ∧
    (4 : RegNum).toNat ≤ 4 ∧ r.env = .hostWrite 4 1 :: [] := by decide

theorem test_witness_ReservedAndReadOnlyRegisters :
    5 ≤ (5 : RegNum).toNat ∧ 5 ≤ (15 : RegNum).toNat ∧ 9 ≤ (9 : RegNum).toNat ∧ 9 ≤ (15 : RegNum).toNat ∧
    { State.reset with env := [.hostWrite 5 1] }.env = .hostWrite 5 1 :: [] ∧
    { State.reset with env := [.hostRead 9] }.env = .hostRead 9 :: [] := by decide

theorem test_witness_OtherCommandCodes :
    let s := { State.reset with env := [.hostWrite 0 0x00000100] }
    let r := { State.reset with env := [.hostWrite 0 0x00000102] }
    let q := { State.reset with env := [.hostWrite 0 0x000000FF] }
    s.rstate ≠ .attempting ∧ s.env = .hostWrite 0 0x00000100 :: [] ∧ (0x00000100 : HostWord).extractLsb' 0 8 = 0x00#8 ∧
    r.rstate ≠ .attempting ∧ r.env = .hostWrite 0 0x00000102 :: [] ∧
    2 ≤ ((0x00000102 : HostWord).extractLsb' 0 8).toNat ∧
    q.rstate ≠ .attempting ∧ q.env = .hostWrite 0 0x000000FF :: [] ∧
    2 ≤ ((0x000000FF : HostWord).extractLsb' 0 8).toNat := by
  decide

/-- 30_encoding R96: code 0x00 has no effect, 0x02 and 0xFF are refused, and any code is refused while busy. -/
theorem test_command_codes :
    step { State.reset with env := [.hostWrite 0 0x00000100] } = .next State.reset ∧
    step { State.reset with env := [.hostWrite 0 0x00000002] } = .refused (.hostCommandReserved 0x02) ∧
    step { State.reset with env := [.hostWrite 0 0x000001FF] } = .refused (.hostCommandReserved 0xFF) ∧
    step { inPhase .acqPoll with env := [.hostWrite 0 0x00000002] } = .refused (.hostWriteWhileBusy 0) :=
  ⟨rfl, rfl, rfl, rfl⟩

/-! ### Invariants and safety -/

theorem test_witness_StepKeepsTheTraceForm :
    (withTrace [.high, .low]).trace.wf = true ∧ ∃ t, step (withTrace [.high, .low]) = .next t :=
  ⟨by decide, _, rfl⟩

theorem test_witness_StepKeepsStateSound : Sound soundAttempting ∧ ∃ t, step soundAttempting = .next t :=
  ⟨test_witness_Sound.2.1, _, rfl⟩

theorem test_witness_OnlyForbiddenHostWritesAreRefused :
    Sound { soundAttempting with env := [.hostWrite 1 5] } ∧
    step { soundAttempting with env := [.hostWrite 1 5] } = .refused (.hostWriteWhileBusy 1) ∧
    Sound { soundIdle with env := [.hostWrite 0 2] } ∧
    step { soundIdle with env := [.hostWrite 0 2] } = .refused (.hostCommandReserved 2) := by
  refine ⟨?_, rfl, ?_, rfl⟩ <;>
    refine sound_of_idle_capture _ (by decide) rfl rfl rfl rfl rfl rfl rfl rfl rfl rfl (by decide) ?_ ?_ <;>
    first
      | exact ⟨by decide, by decide, by decide⟩
      | exact ⟨by decide, by decide, by decide, by decide, by decide⟩

theorem test_witness_ChecksumErrorNeverReported :
    State.reset.status ≠ .checksumError ∧ ∃ t, step State.reset = .next t :=
  ⟨by decide, _, rfl⟩

/-- Two sound states at the start of an attempt that differ in stale values. -/
theorem test_witness_StaleValuesNeverMatter :
    let t := { soundAttempting with att := .checksumMismatch, lastv := true, last := .high, sum := 70, acc := 0x2802170546 }
    Sound soundAttempting ∧ Sound t ∧ SameButStale soundAttempting t := by
  refine ⟨test_witness_Sound.2.1, ?_, rfl, nofun, fun h => ?_, nofun, nofun⟩
  · refine sound_of_idle_capture _ (by decide) rfl rfl rfl rfl rfl rfl rfl rfl rfl rfl (by decide) ?_ ?_
    · exact ⟨by decide, by decide, by decide⟩
    · exact ⟨by decide, by decide, by decide, by decide, by decide⟩
  · exact ⟨rfl, fun _ _ => rfl⟩

end Sys2Proof.Tests
end

/-! PROOF. The statements of 00_scope: which operations the PORT hears of (R12), how BUSY ends (R14), and the widths of the
counts (R5). -/

namespace Sys2Proof.Machine

/-! ## What the shared operations leave of the port and of RSTATE -/

@[simp] theorem State.afterCommand_portLog (s : State) : s.afterCommand.portLog = s.portLog := by
  rw [State.afterCommand_frame]

@[simp] theorem State.afterCommand_outstanding (s : State) : s.afterCommand.outstanding = s.outstanding := by
  rw [State.afterCommand_frame]

@[simp] theorem State.detectChange_portLog (c : Level) (s : State) : (s.detectChange c).portLog = s.portLog := by
  rw [State.detectChange_frame]

@[simp] theorem State.detectChange_outstanding (c : Level) (s : State) :
    (s.detectChange c).outstanding = s.outstanding := by
  rw [State.detectChange_frame]

@[simp] theorem State.detectChange_rstate (c : Level) (s : State) : (s.detectChange c).rstate = s.rstate := by
  rw [State.detectChange_frame]

@[simp] theorem acqPollAt_portLog (s : State) : (acqPollAt Config.traceDepth s).portLog = s.portLog := by
  rcases acqPollAt_outcomes s with ⟨-, -, h⟩ | ⟨-, -, h⟩ | ⟨-, h⟩ <;> simp [h]

@[simp] theorem acqPollAt_rstate (s : State) : (acqPollAt Config.traceDepth s).rstate = s.rstate := by
  rcases acqPollAt_outcomes s with ⟨-, -, h⟩ | ⟨-, -, h⟩ | ⟨-, h⟩ <;> simp [h]

@[simp] theorem State.judgeLength_portLog (s : State) : s.judgeLength.portLog = s.portLog := by
  rcases s.judgeLength_cases with ⟨-, h⟩ | ⟨-, h⟩ <;> simp [h]

@[simp] theorem State.judgeLength_rstate (s : State) : s.judgeLength.rstate = s.rstate := by
  rcases s.judgeLength_cases with ⟨-, h⟩ | ⟨-, h⟩ <;> simp [h]

@[simp] theorem State.judgeChecksum_portLog (s : State) : s.judgeChecksum.portLog = s.portLog := by
  rcases s.judgeChecksum_cases with ⟨-, h⟩ | ⟨-, h⟩ <;> simp [h]

@[simp] theorem State.beginRead_portLog (s : State) : s.beginRead.portLog = s.portLog := by
  rcases s.beginRead_cases with ⟨-, h⟩ | ⟨-, h⟩ <;> simp [h]

/-! ## What the PORT hears (00_scope R12, 40_gpio R110) -/

/-- The five port commands alike, whatever phase they complete in. -/
theorem exec_gcmd_completes {i : Instr} {s t : State} {w : PortWord} (hw : encode i = .gcmd w)
    (h : exec i s = .next t) : t.portLog = .completed w :: s.portLog ∧ t.outstanding = none := by
  by_cases hp : ∃ p, i = .pinRead p
  · obtain ⟨p, rfl⟩ := hp
    obtain rfl : pinReadWord p = w := CodeWord.gcmd.inj hw
    have h : pinReadAt Config.traceDepth p s = .next t := h
    by_cases hpoll : s.phase = .acqPoll
    · rw [pinReadAt_polling _ _ _ hpoll, State.takeSample_eq_next_iff] at h
      obtain ⟨-, rfl⟩ := h
      simp
    · rw [pinReadAt_elsewhere _ _ _ hpoll] at h
      cases h
      simp
  · rw [exec_portCommand i w s hw (fun p hi => hp ⟨p, hi⟩)] at h
    cases h
    simp

/-- READ and the phases complete no command. -/
theorem exec_portLog_of_not_gcmd {i : Instr} {s t : State} (hi : ∀ w, encode i ≠ .gcmd w)
    (h : exec i s = .next t) : t.portLog = s.portLog := by
  rcases exec_cases i s t h with
    ⟨-, -, rfl⟩ | ⟨w, hw, -⟩ | ⟨p, rfl, -⟩ | ⟨p, rfl, -⟩ | ⟨-, rfl⟩ | ⟨-, rfl⟩ | ⟨-, ls, -, rfl⟩ | ⟨-, rfl⟩ |
    ⟨-, rfl⟩ | ⟨-, rfl⟩
  · simp
  · exact absurd hw (hi w)
  · exact absurd rfl (hi (pinReadWord p))
  · exact absurd rfl (hi (pinReadWord p))
  all_goals simp

/-! ## How BUSY ends (00_scope R14, 45_retry R170, R174 to R176) -/

/-- After a completed command only the exhaustion test of BACKOFF ends BUSY (45_retry R173, R175). -/
theorem State.afterCommand_ends_busy {s : State} (hb : s.rstate = .attempting)
    (he : s.afterCommand.rstate ≠ .attempting) :
    s.phase = .backoff ∧ s.tries = s.maxTries ∧ s.afterCommand.rstate = .failed ∧
      s.afterCommand.status = .timeoutError := by
  have stays (h : s.afterCommand.rstate = s.rstate) : False := he (h.trans hb)
  rcases s.afterCommand_outcomes with ⟨-, -, h⟩ | ⟨-, -, h⟩ | ⟨hphase, htries, h⟩ | ⟨-, -, h⟩ | ⟨-, -, h⟩
  · exact (stays (by simp [h])).elim
  · exact (stays (by simp [h])).elim
  · exact ⟨hphase, htries, by simp [h], by simp [h]⟩
  · exact (stays (by simp [h])).elim
  · exact (stays (by simp [h])).elim

/-- The judgement of the checksum ends BUSY only by accepting the frame (45_retry R174). -/
theorem State.judgeChecksum_ends_busy {s : State} (hb : s.rstate = .attempting)
    (he : s.judgeChecksum.rstate ≠ .attempting) :
    s.judgeChecksum.rstate = .succeeded ∧ s.judgeChecksum.status = .ok := by
  rcases s.judgeChecksum_cases with ⟨-, h⟩ | ⟨-, h⟩
  · simp [h]
  · exact absurd (by simp [h, hb]) he

/-- An operation ends BUSY only as a VALIDATE that accepts, or as a port command that completes in an exhausted BACKOFF. -/
theorem exec_ends_busy {i : Instr} {s t : State} (h : exec i s = .next t) (hb : s.rstate = .attempting)
    (he : t.rstate ≠ .attempting) :
    (i = .validate ∧ t.rstate = .succeeded ∧ t.status = .ok) ∨
    ((∃ w, encode i = .gcmd w) ∧ s.phase = .backoff ∧ s.tries = s.maxTries ∧ t.rstate = .failed ∧
      t.status = .timeoutError) := by
  have stays (hs : t.rstate = s.rstate) : False := he (hs.trans hb)
  rcases exec_cases i s t h with
    ⟨-, hidle, -⟩ | ⟨w, hw, -, rfl⟩ | ⟨p, rfl, -, rfl⟩ | ⟨p, -, -, -, rfl⟩ | ⟨-, rfl⟩ | ⟨-, rfl⟩ | ⟨-, ls, -, rfl⟩ |
    ⟨-, rfl⟩ | ⟨rfl, rfl⟩ | ⟨-, rfl⟩
  · exact absurd hb hidle
  · exact .inr ⟨⟨w, hw⟩, by simpa using State.afterCommand_ends_busy (by simpa using hb) he⟩
  · exact .inr ⟨⟨_, rfl⟩, by simpa using State.afterCommand_ends_busy (by simpa using hb) he⟩
  · exact (stays (by simp)).elim
  · exact (stays (by simp)).elim
  · exact (stays (by simp)).elim
  · exact (stays (by simp)).elim
  · exact (stays (by simp)).elim
  · exact .inl ⟨rfl, State.judgeChecksum_ends_busy (by simpa using hb) he⟩
  · exact (stays (by simp)).elim

/-- A decoded command with a Level in its argument is one of its family. -/
theorem eq_of_withLevelArg {mk : Level → Instr} {arg : BitVec 32} {i : Instr} (h : withLevelArg mk arg = .ok i) :
    ∃ l, i = mk l := by
  unfold withLevelArg at h
  split at h <;> cases h
  exact ⟨_, rfl⟩

/-- A decoded command whose argument is 0 is the command asked for. -/
theorem eq_of_withZeroArg {i j : Instr} {arg : BitVec 32} (h : withZeroArg j arg = .ok i) : i = j := by
  unfold withZeroArg at h
  split at h <;> cases h
  rfl

/-- The port command decoder finds port commands only. -/
theorem encode_of_decodePortWord {w : PortWord} {i : Instr} (h : decodePortWord w = .ok i) :
    ∃ w', encode i = .gcmd w' := by
  unfold decodePortWord at h
  split at h
  · obtain ⟨l, rfl⟩ := eq_of_withLevelArg h; exact ⟨_, rfl⟩
  split at h
  · obtain rfl := eq_of_withZeroArg h; exact ⟨_, rfl⟩
  split at h
  · obtain ⟨l, rfl⟩ := eq_of_withLevelArg h; exact ⟨_, rfl⟩
  split at h
  · obtain rfl := eq_of_withZeroArg h; exact ⟨_, rfl⟩
  split at h <;> cases h
  exact ⟨_, rfl⟩

/-- The operation PHASE names is no port command, and it is VALIDATE in VALIDATE only. -/
theorem decode_phase_ok {p : Phase} {i : Instr} (h : decode (.phase p.code) = .ok i) :
    (∀ w, encode i ≠ .gcmd w) ∧ (i = .validate → p = .validate) := by
  rw [decode_phase_code] at h
  cases p <;> cases h <;> exact ⟨nofun, by simp⟩

/-- CTRL and the PORT end BUSY only at an outcome: an outstanding command is no VALIDATE, and the operation PHASE names completes
no command. -/
theorem ctrlFetch_ends_busy {s t : State} (h : (ctrlFetch s).perform = .next t) (hb : s.rstate = .attempting)
    (he : t.rstate ≠ .attempting) :
    (t.rstate = .succeeded ∧ s.phase = .validate ∧ s.outstanding = none ∧ t.status = .ok) ∨
    (t.rstate = .failed ∧ s.phase = .backoff ∧ s.outstanding.isSome = true ∧ s.tries = s.maxTries ∧
      t.status = .timeoutError) := by
  rcases ctrlFetch_cases s with
    ⟨w, ho, ⟨i, hd, hf⟩ | ⟨e, -, hf⟩⟩ | ⟨ho, -, ⟨i, hd, hf⟩ | ⟨-, hf⟩⟩ | ⟨-, hidle, -⟩
  · rw [hf] at h
    rcases exec_ends_busy h hb he with ⟨rfl, -⟩ | ⟨-, hphase, htries, hfail, hstatus⟩
    · obtain ⟨w', hw'⟩ := encode_of_decodePortWord hd
      cases hw'
    · exact .inr ⟨hfail, hphase, by simp [ho], htries, hstatus⟩
  · rw [hf] at h
    cases h
  · rw [hf] at h
    obtain ⟨hno, hval⟩ := decode_phase_ok hd
    rcases exec_ends_busy h hb he with ⟨hi, hsucc, hok⟩ | ⟨⟨w, hw⟩, -⟩
    · exact .inl ⟨hsucc, hval hi, ho, hok⟩
    · exact absurd hw (hno w)
  · rw [hf] at h
    cases h
    exact absurd hb he
  · exact absurd hb hidle

/-- While BUSY a host write is refused or ignored (10_state R50, R51). -/
theorem hostWriteRegister_busy {reg : RegNum} {data : HostWord} {s t : State}
    (h : (hostWriteRegister reg data s).perform = .next t) (hb : s.rstate = .attempting) : t = s := by
  rcases regNum_cases reg with rfl | rfl | rfl | rfl | rfl | hreg
  · rcases hostWriteRegister_cmd data s with ⟨-, hw⟩ | ⟨-, hw⟩ <;> rw [hw] at h
    · exact absurd hb ((execRead_eq_next_iff s t).1 h).1
    · exact absurd hb (State.guardedWrite_eq_next h).2
  · exact absurd hb (State.guardedWrite_eq_next h).2
  · exact absurd hb (State.guardedWrite_eq_next h).2
  · exact absurd hb (State.guardedWrite_eq_next h).2
  · exact absurd hb (State.guardedWrite_eq_next h).2
  · rw [hostWriteRegister_other _ _ _ hreg] at h
    cases h
    rfl

end Sys2Proof.Machine

namespace Sys2Proof.Safety

open Sys2Proof.Machine

/-! ## The widths of the counts (00_scope R5) -/

/-- A count up to TRACE_DEPTH fits the W_CNT bits that R5 gives it. -/
theorem lt_two_pow_wCnt {n : Nat} (h : n ≤ Config.traceDepth) : n < 2 ^ Config.wCnt :=
  Nat.lt_of_le_of_lt h Nat.lt_log2_self

/-! ## The obligations -/

/-- Settles O40: the port commands by `exec_gcmd_completes`, the other operations by `exec_portLog_of_not_gcmd`. -/
theorem portHearsExactlyTheCommands : Obligations.PortHearsExactlyTheCommands :=
  fun _ _ _ h => ⟨fun _ hw => exec_gcmd_completes hw h, fun hi => exec_portLog_of_not_gcmd hi h⟩

/-- Settles O41, by what takes the step: CTRL and the PORT (nothing waits, or a pass), or an event of the outside, of which only
a reset ends BUSY. -/
theorem busyEndsOnlyAtAnOutcome : Obligations.BusyEndsOnlyAtAnOutcome := by
  intro s t h hb he
  cases henv : s.env with
  | nil =>
    rw [step_nil henv] at h
    exact .inr (ctrlFetch_ends_busy h hb he)
  | cons e rest =>
    rw [step_cons henv] at h
    cases e with
    | hostRead reg => cases h; exact absurd hb he
    | hostWrite reg data => obtain rfl := hostWriteRegister_busy h hb; exact absurd hb he
    | reset => exact .inl ⟨rest, rfl⟩
    | pass => exact .inr (ctrlFetch_ends_busy (s := { s with env := rest }) h hb he)

/-- Settles O58: soundness bounds every count by TRACE_DEPTH, which fits W_CNT bits. -/
theorem countsFitTheirWidth : Obligations.CountsFitTheirWidth := by
  intro s hs
  exact ⟨lt_two_pow_wCnt hs.capture.tlen_le, lt_two_pow_wCnt hs.counters.run_le, lt_two_pow_wCnt hs.counters.wmin_le,
    lt_two_pow_wCnt hs.counters.wmax_le, fun w hw => lt_two_pow_wCnt (hs.counters.pw_le w hw)⟩

end Sys2Proof.Safety

/-! PROOF. The statements of 10_state. First what CTRL and the PORT do from a sound state (`CtrlStep`), which is all that the two
large statements need: the block's invariant is kept (R21 to R32, R47), and stale values do not matter (R36). Then the registers,
the flags and the host interface (R35, R37, R40 to R51). -/

namespace Sys2Proof

/-! ## The words that CTRL issues name the operations they are made for -/

@[simp] theorem decodePortWord_cfgOutWord (pin : Pin) (l : Level) :
    decodePortWord (cfgOutWord pin l) = .ok (.cfgOut pin l) := by
  simp [decodePortWord, cfgOutWord, withLevelArg]

@[simp] theorem decodePortWord_cfgInWord (pin : Pin) : decodePortWord (cfgInWord pin) = .ok (.cfgIn pin) := by
  simp [decodePortWord, cfgInWord, withZeroArg]

@[simp] theorem decodePortWord_writeWord (pin : Pin) (l : Level) :
    decodePortWord (writeWord pin l) = .ok (.write pin l) := by
  simp [decodePortWord, writeWord, withLevelArg]

@[simp] theorem decodePortWord_pinReadWord (pin : Pin) : decodePortWord (pinReadWord pin) = .ok (.pinRead pin) := by
  simp [decodePortWord, pinReadWord, withZeroArg]

/-- The duration of a SLEEP word is its low 32 bits (30_encoding R93). -/
@[simp] theorem decodePortWord_sleepWord (pin : Pin) (d : Nat) :
    decodePortWord (sleepWord pin d) = .ok (.sleep pin (d % 2 ^ 32)) := by
  simp [decodePortWord, sleepWord]

@[simp] theorem sleepWord_mod (pin : Pin) (d : Nat) : sleepWord pin (d % 2 ^ 32) = sleepWord pin d := by
  simp only [sleepWord]
  congr 1
  exact BitVec.eq_of_toNat_eq (by simp)

namespace Machine

/-- Every handshake word is the word of an operation that is no PIN_READ (41_sampler R121). -/
theorem decodePortWord_handshakeWord (pin : Pin) (n : Fin 7) :
    ∃ i, decodePortWord (handshakeWord pin n) = .ok i ∧ encode i = .gcmd (handshakeWord pin n) ∧ ∀ p, i ≠ .pinRead p := by
  match n with
  | 0 => exact ⟨_, decodePortWord_cfgOutWord _ _, rfl, nofun⟩
  | 1 => exact ⟨_, decodePortWord_sleepWord _ _, rfl, nofun⟩
  | 2 => exact ⟨_, decodePortWord_writeWord _ _, rfl, nofun⟩
  | 3 => exact ⟨_, decodePortWord_sleepWord _ _, rfl, nofun⟩
  | 4 => exact ⟨_, decodePortWord_writeWord _ _, rfl, nofun⟩
  | 5 => exact ⟨_, decodePortWord_sleepWord _ _, rfl, nofun⟩
  | 6 => exact ⟨_, decodePortWord_cfgInWord _, rfl, nofun⟩

/-- A completed CFG_IN leaves its pin an input (40_gpio R112). -/
theorem pinLeft_cfgIn (pin : Pin) (log : List PortEvent) :
    pinLeft pin (.completed (cfgInWord pin) :: log) = .input := by
  simp [pinLeft, PinView.afterEvent, PinView.afterInstr]

/-- A completed PIN_READ leaves every pin as it is (40_gpio R114). -/
theorem pinLeft_pinRead (pin p : Pin) (log : List PortEvent) :
    pinLeft pin (.completed (pinReadWord p) :: log) = pinLeft pin log := by
  simp [pinLeft, PinView.afterEvent, PinView.afterInstr]

/-! ## Which operation CTRL and the PORT perform -/

theorem ctrlFetch_outstanding {s : State} {w : PortWord} {i : Instr} (ho : s.outstanding = some w)
    (hd : decodePortWord w = .ok i) : (ctrlFetch s).perform = exec i s := by
  simp only [ctrlFetch, ho, Sys2Proof.decode, hd, Fetched.perform_run]

theorem ctrlFetch_phase {s : State} {i : Instr} (ho : s.outstanding = none) (hr : s.rstate = .attempting)
    (hd : Sys2Proof.decode (.phase s.phase.code) = .ok i) : (ctrlFetch s).perform = exec i s := by
  simp only [ctrlFetch, ho, s.busy_iff.2 hr, if_true, hd, Fetched.perform_run]

theorem ctrlFetch_waits {s : State} (ho : s.outstanding = none) (hr : s.rstate ≠ .attempting) :
    (ctrlFetch s).perform = .next s := by
  have hb : s.busy = false := by simpa [State.busy] using hr
  simp [ctrlFetch, ho, hb]

/-- The state in which the change detector tests a polled sample: the PIN_READ completed, its answer appended (40_gpio R114,
41_sampler R124). -/
abbrev State.sampled (s : State) : State :=
  (s.completePort (pinReadWord s.pin)).advanceLine.appendSample s.lineLevel

/-- A poll is a change exactly when it is the first of the capture or differs from LAST (41_sampler R124). -/
theorem State.isChange_iff (c : Level) (s : State) : s.isChange c = true ↔ s.lastv = false ∨ s.last ≠ c := by
  simp [State.isChange]

theorem State.detectChange_of_change {c : Level} {s : State} (h : s.lastv = false ∨ s.last ≠ c) :
    s.detectChange c = s.markChange c := if_pos ((s.isChange_iff c).2 h)

theorem State.detectChange_of_same {c : Level} {s : State} (hv : s.lastv = true) (hl : s.last = c) :
    s.detectChange c =
      if (s.unchanged + 1).toNat = 200 then s.countUnchanged.endCapture else s.countUnchanged :=
  if_neg (by simp [s.isChange_iff c, hv, hl])

/-- What CTRL and the PORT can do in a sound state, one constructor per way a step of theirs can go, with the test that decides
it. -/
inductive CtrlStep (s : State) : State → Prop
  /-- Nothing to do (30_encoding R88). -/
  | waited (ho : s.outstanding = none) (hr : s.rstate ≠ .attempting) : CtrlStep s s
  /-- ACQ_REQUEST issues the command of STEP (41_sampler R121). -/
  | handshakeIssued (ho : s.outstanding = none) (hr : s.rstate = .attempting) (hp : s.phase = .acqRequest) :
      CtrlStep s (s.issue (handshakeWord s.pin s.stepNo))
  /-- A handshake command but the last completes (41_sampler R121). -/
  | handshakeAdvanced (ho : s.outstanding = some (handshakeWord s.pin s.stepNo)) (hp : s.phase = .acqRequest)
      (hn : s.stepNo ≠ 6) : CtrlStep s (s.completePort (handshakeWord s.pin s.stepNo)).nextStep
  /-- The last handshake command completes (41_sampler R121). -/
  | handshakeEnded (ho : s.outstanding = some (handshakeWord s.pin s.stepNo)) (hp : s.phase = .acqRequest)
      (hn : s.stepNo = 6) : CtrlStep s (s.completePort (handshakeWord s.pin s.stepNo)).enterPoll
  /-- ACQ_POLL starts a capture (41_sampler R123). -/
  | captureStarted (ho : s.outstanding = none) (hr : s.rstate = .attempting) (hp : s.phase = .acqPoll)
      (hc : s.polling = false) : CtrlStep s (s.startCapture.issue (pinReadWord s.pin))
  /-- ACQ_POLL polls again (41_sampler R122). -/
  | pollIssued (ho : s.outstanding = none) (hr : s.rstate = .attempting) (hp : s.phase = .acqPoll)
      (hc : s.polling = true) (hn : s.tlen ≠ Config.traceDepth) : CtrlStep s (s.issue (pinReadWord s.pin))
  /-- The trace is full (41_sampler R126). -/
  | timedOut (ho : s.outstanding = none) (hr : s.rstate = .attempting) (hp : s.phase = .acqPoll)
      (hc : s.polling = true) (hn : s.tlen = Config.traceDepth) : CtrlStep s (s.failAttempt .acquisitionTimeout)
  /-- A polled sample is a change (41_sampler R124). -/
  | changed (ho : s.outstanding = some (pinReadWord s.pin)) (hp : s.phase = .acqPoll) (hc : s.polling = true)
      (hd : s.tlen < Config.traceDepth) (hl : s.lastv = false ∨ s.last ≠ s.lineLevel) :
      CtrlStep s (s.sampled.markChange s.lineLevel)
  /-- A polled sample is the last of the capture (41_sampler R125). -/
  | settled (ho : s.outstanding = some (pinReadWord s.pin)) (hp : s.phase = .acqPoll) (hc : s.polling = true)
      (hd : s.tlen < Config.traceDepth) (hv : s.lastv = true) (hl : s.last = s.lineLevel)
      (hu : (s.unchanged + 1).toNat = 200) : CtrlStep s s.sampled.countUnchanged.endCapture
  /-- A polled sample is unchanged and not the last (41_sampler R124). -/
  | unchanged (ho : s.outstanding = some (pinReadWord s.pin)) (hp : s.phase = .acqPoll) (hc : s.polling = true)
      (hd : s.tlen < Config.traceDepth) (hv : s.lastv = true) (hl : s.last = s.lineLevel)
      (hu : (s.unchanged + 1).toNat ≠ 200) : CtrlStep s s.sampled.countUnchanged
  /-- EXTRACT finds forty widths (42_extractor R145). -/
  | extracted (ls : List Level) (ho : s.outstanding = none) (hr : s.rstate = .attempting) (hp : s.phase = .extract)
      (hls : s.readTrace = .ok ls) (hn : (Scan.trace s.pw ls).pcount.toNat = Config.nBits) :
      CtrlStep s (s.storeScan (Scan.trace s.pw ls)).enterDecode
  /-- EXTRACT finds another number of widths (42_extractor R145, 45_retry R170). -/
  | misread (ls : List Level) (ho : s.outstanding = none) (hr : s.rstate = .attempting) (hp : s.phase = .extract)
      (hls : s.readTrace = .ok ls) (hn : (Scan.trace s.pw ls).pcount.toNat ≠ Config.nBits) :
      CtrlStep s ((s.storeScan (Scan.trace s.pw ls)).failAttempt .invalidFrameLength)
  /-- DECODE (43_decoder R155). -/
  | decoded (ho : s.outstanding = none) (hr : s.rstate = .attempting) (hp : s.phase = .decode) :
      CtrlStep s s.storeDecoded
  /-- VALIDATE accepts the frame (44_validator R164). -/
  | accepted (ho : s.outstanding = none) (hr : s.rstate = .attempting) (hp : s.phase = .validate)
      (hsum : frameByte s.acc 4 = frameSum s.acc) :
      CtrlStep s (s.storeSum.succeed (toTenths (temperatureTenths s.acc)) (toTenths (humidityTenths s.acc)))
  /-- VALIDATE rejects the frame (44_validator R164). -/
  | rejected (ho : s.outstanding = none) (hr : s.rstate = .attempting) (hp : s.phase = .validate)
      (hsum : frameByte s.acc 4 ≠ frameSum s.acc) : CtrlStep s (s.storeSum.failAttempt .checksumMismatch)
  /-- BACKOFF issues its SLEEP (45_retry R173). -/
  | delayIssued (ho : s.outstanding = none) (hr : s.rstate = .attempting) (hp : s.phase = .backoff) :
      CtrlStep s (s.issue (sleepWord s.pin s.minInterval.toNat))
  /-- The delay ends with no tries left (45_retry R173, R175). -/
  | exhausted (ho : s.outstanding = some (sleepWord s.pin s.minInterval.toNat)) (hp : s.phase = .backoff)
      (hn : s.tries = s.maxTries) : CtrlStep s (s.completePort (sleepWord s.pin s.minInterval.toNat)).exhaust
  /-- The delay ends with tries left (45_retry R173). -/
  | retried (ho : s.outstanding = some (sleepWord s.pin s.minInterval.toNat)) (hp : s.phase = .backoff)
      (hn : s.tries ≠ s.maxTries) : CtrlStep s (s.completePort (sleepWord s.pin s.minInterval.toNat)).retry

/-- While Attempting with nothing outstanding, the step is the operation of the phase. -/
theorem ctrlFetch_inPhase {s : State} {p : Phase} {i : Instr} (ho : s.outstanding = none) (hr : s.rstate = .attempting)
    (hp : s.phase = p) (hd : Sys2Proof.decode (.phase p.code) = .ok i) : (ctrlFetch s).perform = exec i s :=
  ctrlFetch_phase ho hr (hp ▸ hd)

/-- The completion of a handshake command, before the test of STEP. -/
theorem ctrlFetch_handshake {s : State} (ho : s.outstanding = some (handshakeWord s.pin s.stepNo))
    (hp : s.phase = .acqRequest) :
    (ctrlFetch s).perform = .next (s.completePort (handshakeWord s.pin s.stepNo)).advanceHandshake := by
  obtain ⟨i, hd, he, hi⟩ := decodePortWord_handshakeWord s.pin s.stepNo
  rw [ctrlFetch_outstanding ho hd, exec_portCommand i _ s he hi]
  simp [State.afterCommand, hp]

/-- The completion of a poll, before the change detector's tests. -/
theorem ctrlFetch_poll {s : State} (ho : s.outstanding = some (pinReadWord s.pin)) (hp : s.phase = .acqPoll)
    (hd : s.tlen < Config.traceDepth) : (ctrlFetch s).perform = .next (s.sampled.detectChange s.lineLevel) := by
  rw [ctrlFetch_outstanding ho (decodePortWord_pinReadWord _)]
  refine (pinReadAt_polling _ _ _ hp).trans ((State.takeSample_eq_next_iff _ _ _ _).2 ⟨?_, rfl⟩)
  simpa using hd

/-- The completion of the delay, before the exhaustion test. -/
theorem ctrlFetch_delay {s : State} (ho : s.outstanding = some (sleepWord s.pin s.minInterval.toNat))
    (hp : s.phase = .backoff) :
    (ctrlFetch s).perform = .next (s.completePort (sleepWord s.pin s.minInterval.toNat)).endBackoff := by
  rw [ctrlFetch_outstanding ho (decodePortWord_sleepWord _ _),
    exec_portCommand _ (sleepWord s.pin s.minInterval.toNat) s (by simp only [encode, sleepWord_mod]) (by simp)]
  simp [State.afterCommand, hp]

/-- A `CtrlStep` is what CTRL and the PORT answer. -/
theorem CtrlStep.perform {s t : State} (h : CtrlStep s t) : (ctrlFetch s).perform = .next t := by
  cases h with
  | waited ho hr => exact ctrlFetch_waits ho hr
  | handshakeIssued ho hr hp => exact ctrlFetch_inPhase ho hr hp rfl
  | handshakeAdvanced ho hp hn => simp [ctrlFetch_handshake ho hp, State.advanceHandshake, hn]
  | handshakeEnded ho hp hn => simp [ctrlFetch_handshake ho hp, State.advanceHandshake, hn]
  | captureStarted ho hr hp hc =>
    rw [ctrlFetch_inPhase (i := .acqPoll) ho hr hp rfl]
    simp [exec, execAcqPoll, acqPollAt, hc, State.pollHead, Config.traceDepth]
  | pollIssued ho hr hp hc hn =>
    rw [ctrlFetch_inPhase (i := .acqPoll) ho hr hp rfl]
    simp [exec, execAcqPoll, acqPollAt, hc, State.pollHead, hn]
  | timedOut ho hr hp hc hn =>
    rw [ctrlFetch_inPhase (i := .acqPoll) ho hr hp rfl]
    simp [exec, execAcqPoll, acqPollAt, hc, State.pollHead, hn]
  | changed ho hp hc hd hl => rw [ctrlFetch_poll ho hp hd, State.detectChange_of_change (by simpa using hl)]
  | settled ho hp hc hd hv hl hu =>
    rw [ctrlFetch_poll ho hp hd, State.detectChange_of_same (by simpa using hv) (by simpa using hl), if_pos (by simpa using hu)]
  | unchanged ho hp hc hd hv hl hu =>
    rw [ctrlFetch_poll ho hp hd, State.detectChange_of_same (by simpa using hv) (by simpa using hl), if_neg (by simpa using hu)]
  | extracted ls ho hr hp hls hn =>
    rw [ctrlFetch_inPhase (i := .extract) ho hr hp rfl]
    exact (execExtract_eq_next_iff _ _).2 ⟨ls, hls, by simp [State.judgeLength, hn]⟩
  | misread ls ho hr hp hls hn =>
    rw [ctrlFetch_inPhase (i := .extract) ho hr hp rfl]
    exact (execExtract_eq_next_iff _ _).2 ⟨ls, hls, by simp [State.judgeLength, hn]⟩
  | decoded ho hr hp => exact ctrlFetch_inPhase ho hr hp rfl
  | accepted ho hr hp hsum =>
    rw [ctrlFetch_inPhase (i := .validate) ho hr hp rfl]
    simp [exec, execValidate, State.judgeChecksum, hsum]
  | rejected ho hr hp hsum =>
    rw [ctrlFetch_inPhase (i := .validate) ho hr hp rfl]
    simp [exec, execValidate, State.judgeChecksum, hsum]
  | delayIssued ho hr hp => exact ctrlFetch_inPhase ho hr hp rfl
  | exhausted ho hp hn => simp [ctrlFetch_delay ho hp, State.endBackoff, hn]
  | retried ho hp hn => simp [ctrlFetch_delay ho hp, State.endBackoff, hn]

end Machine

end Sys2Proof

namespace Sys2Proof.Machine

/-! ## The scan of EXTRACT: what bounds its counts, and what it depends on -/

@[simp] theorem Scan.emit_run (v : Nat) (r : Scan) : (r.emit v).run = r.run := rfl

@[simp] theorem Scan.emit_xs (v : Nat) (r : Scan) : (r.emit v).xs = r.xs := rfl

/-- An emitted width lands at PCOUNT, and no other entry changes (42_extractor R143). -/
theorem Scan.emit_getElem (v : Nat) (r : Scan) (i : Nat) (hi : i < 40) :
    (r.emit v).pw[i] = if r.pcount.toNat = i then v else r.pw[i] := by
  by_cases h : r.pcount.toNat < 40
  · simp only [Scan.emit, if_pos h]
    exact Vector.getElem_setIfInBounds hi
  · simp [Scan.emit, h, show r.pcount.toNat ≠ i by omega]

/-- PCOUNT counts the emitted widths, saturating at 41 (42_extractor R143). -/
theorem Scan.emit_pcount (v : Nat) (r : Scan) :
    (r.emit v).pcount.toNat = if r.pcount.toNat < 41 then r.pcount.toNat + 1 else r.pcount.toNat := by
  by_cases h : r.pcount.toNat < 41
  · simp only [Scan.emit, if_pos h, BitVec.toNat_add]
    exact Nat.mod_eq_of_lt (by simp; omega)
  · simp only [Scan.emit, if_neg h]

/-- A scan that has seen n samples, with a width file of entries up to `bound`: its counts, and the entries it has emitted. -/
structure Scan.Bounded (bound n : Nat) (r : Scan) : Prop where
  pcount_le : r.pcount.toNat ≤ 41
  run_le : r.run ≤ n
  pw_le : ∀ i (hi : i < 40), r.pw[i] ≤ bound
  emitted_pos : ∀ i (hi : i < 40), i < r.pcount.toNat → 1 ≤ r.pw[i]

theorem Scan.Bounded.emit {bound n : Nat} {r : Scan} (h : r.Bounded bound n) {v : Nat} (hv : 1 ≤ v) (hb : v ≤ bound) :
    (r.emit v).Bounded bound n where
  pcount_le := by
    have := h.pcount_le
    rw [Scan.emit_pcount]
    split <;> omega
  run_le := h.run_le
  pw_le i hi := by
    rw [Scan.emit_getElem v r i hi]
    split
    · exact hb
    · exact h.pw_le i hi
  emitted_pos i hi hlt := by
    rw [Scan.emit_getElem v r i hi]
    split
    · exact hv
    · next hne =>
      rw [Scan.emit_pcount] at hlt
      exact h.emitted_pos i hi (by split at hlt <;> omega)

theorem Scan.Bounded.sample {bound n : Nat} {r : Scan} (h : r.Bounded bound n) (hn : n ≤ bound) (c : Level) :
    (r.sample c).Bounded bound (n + 1) := by
  have hrun := h.run_le
  rcases r.sample_cases c with ⟨-, x, hs⟩ | ⟨-, -, hs⟩ | ⟨-, -, hpos, hs⟩ | ⟨-, -, -, hs⟩ <;> rw [hs]
  · exact ⟨h.pcount_le, by simp only; omega, h.pw_le, h.emitted_pos⟩
  · exact ⟨h.pcount_le, by simp only; omega, h.pw_le, h.emitted_pos⟩
  · have he := h.emit hpos (by omega : r.run ≤ bound)
    exact ⟨he.pcount_le, Nat.zero_le _, he.pw_le, he.emitted_pos⟩
  · exact ⟨h.pcount_le, by omega, h.pw_le, h.emitted_pos⟩

theorem Scan.Bounded.foldl {bound n : Nat} {r : Scan} (h : r.Bounded bound n) (ls : List Level)
    (hn : n + ls.length ≤ bound) : (ls.foldl Scan.sample r).Bounded bound (n + ls.length) := by
  induction ls generalizing n r with
  | nil => exact h
  | cons c ls ih =>
    rw [List.length_cons] at hn ⊢
    rw [List.foldl_cons, show n + (ls.length + 1) = n + 1 + ls.length by omega]
    exact ih (h.sample (by omega) c) (by omega)

/-- The scan of a trace of at most `bound` samples (42_extractor R143, R145). -/
theorem Scan.trace_bounded {bound : Nat} {pw : Vector Nat 40} (hpw : ∀ w ∈ pw.toList, w ≤ bound) {ls : List Level}
    (hl : ls.length ≤ bound) : (Scan.trace pw ls).Bounded bound ls.length := by
  have start : (Scan.start pw).Bounded bound 0 :=
    ⟨by simp [Scan.start], Nat.le_refl 0, fun i hi => hpw _ (by simp [Scan.start]), fun i hi h => by simp [Scan.start] at h⟩
  simpa [Scan.trace] using start.foldl ls (by omega)

theorem Scan.Bounded.mem_le {bound n : Nat} {r : Scan} (h : r.Bounded bound n) : ∀ w ∈ r.pw.toList, w ≤ bound := by
  intro w hw
  obtain ⟨i, hi, rfl⟩ := Vector.getElem_of_mem (Vector.mem_toList_iff.1 hw)
  exact h.pw_le i hi

/-- With forty widths emitted, every entry of PW is one of them (42_extractor R148). -/
theorem Scan.Bounded.mem_pos {bound n : Nat} {r : Scan} (h : r.Bounded bound n) (h40 : r.pcount.toNat = Config.nBits) :
    ∀ w ∈ r.pw.toList, 1 ≤ w := by
  intro w hw
  obtain ⟨i, hi, rfl⟩ := Vector.getElem_of_mem (Vector.mem_toList_iff.1 hw)
  exact h.emitted_pos i hi (h40 ▸ hi)

/-- Two scans at the same point that may differ in entries of PW that neither has emitted. -/
structure Scan.Agree (r q : Scan) : Prop where
  xs_eq : q.xs = r.xs
  run_eq : q.run = r.run
  pcount_eq : q.pcount = r.pcount
  pw_eq : ∀ i (hi : i < 40), i < r.pcount.toNat → q.pw[i] = r.pw[i]

theorem Scan.Agree.emit {r q : Scan} (h : r.Agree q) (v : Nat) : (r.emit v).Agree (q.emit v) where
  xs_eq := h.xs_eq
  run_eq := h.run_eq
  pcount_eq := BitVec.eq_of_toNat_eq (by rw [Scan.emit_pcount, Scan.emit_pcount, h.pcount_eq])
  pw_eq i hi hlt := by
    rw [Scan.emit_getElem v q i hi, Scan.emit_getElem v r i hi, h.pcount_eq]
    split
    · rfl
    · next hne =>
      rw [Scan.emit_pcount] at hlt
      exact h.pw_eq i hi (by split at hlt <;> omega)

theorem Scan.Agree.clearRun {r q : Scan} (h : r.Agree q) : Scan.Agree { r with run := 0 } { q with run := 0 } :=
  ⟨h.xs_eq, rfl, h.pcount_eq, h.pw_eq⟩

theorem Scan.Agree.sample {r q : Scan} (h : r.Agree q) (c : Level) : (r.sample c).Agree (q.sample c) := by
  obtain ⟨xs, run, pcount, pw⟩ := r
  obtain ⟨xs', run', pcount', pw'⟩ := q
  obtain ⟨rfl, rfl, rfl, hpw⟩ := h
  have same : Scan.Agree ⟨xs', run', pcount', pw⟩ ⟨xs', run', pcount', pw'⟩ := ⟨rfl, rfl, rfl, hpw⟩
  match xs', c with
  | .seekLow, .low => exact ⟨rfl, rfl, rfl, hpw⟩
  | .seekLow, .high => exact same
  | .seekHigh, .high => exact ⟨rfl, rfl, rfl, hpw⟩
  | .seekHigh, .low => exact same
  | .seekFall, .low => exact ⟨rfl, rfl, rfl, hpw⟩
  | .seekFall, .high => exact same
  | .data, .high => exact ⟨rfl, rfl, rfl, hpw⟩
  | .data, .low =>
    by_cases hrun : 0 < run'
    · simpa [Scan.sample, hrun] using (same.emit run').clearRun
    · simpa [Scan.sample, hrun] using same

/-- What EXTRACT measures does not depend on what PW held before (42_extractor R145, 10_state R36). -/
theorem Scan.trace_agree (pw pw' : Vector Nat 40) (ls : List Level) : (Scan.trace pw ls).Agree (Scan.trace pw' ls) := by
  have fold : ∀ {r q : Scan}, r.Agree q → (ls.foldl Scan.sample r).Agree (ls.foldl Scan.sample q) := by
    induction ls with
    | nil => exact id
    | cons c ls ih => exact fun h => ih (h.sample c)
  exact fold ⟨rfl, rfl, rfl, fun i hi h => by simp [Scan.start] at h⟩

/-- With forty widths emitted the scan leaves nothing of the old PW. -/
theorem Scan.Agree.pw_eq_of_full {r q : Scan} (h : r.Agree q) (h40 : r.pcount.toNat = Config.nBits) : q.pw = r.pw :=
  Vector.ext fun i hi => h.pw_eq i hi (h40 ▸ hi)

end Sys2Proof.Machine

namespace Sys2Proof.Safety

open Sys2Proof.Machine

/-! ## In a sound state CTRL and the PORT always have a step -/

/-- Only a phase that issues commands has one outstanding, and it is the phase's own (45_retry R177). -/
theorem commandNow_eq_some {s : State} {w : PortWord} (h : commandNow s = some w) :
    (s.phase = .acqRequest ∧ w = handshakeWord s.pin s.stepNo) ∨
    (s.phase = .acqPoll ∧ s.polling = true ∧ w = pinReadWord s.pin) ∨
    (s.phase = .backoff ∧ w = sleepWord s.pin s.minInterval.toNat) := by
  cases hp : s.phase with
  | acqRequest => exact .inl ⟨rfl, by simpa [commandNow, hp, eq_comm] using h⟩
  | acqPoll =>
    obtain ⟨hc, hw⟩ : s.polling = true ∧ pinReadWord s.pin = w := by simpa [commandNow, hp] using h
    exact .inr (.inl ⟨rfl, hc, hw.symm⟩)
  | backoff => exact .inr (.inr ⟨rfl, by simpa [commandNow, hp, eq_comm] using h⟩)
  | idle | extract | decode | validate => simp [commandNow, hp] at h

/-- A sound state has a step of CTRL and the PORT: no access outside the trace, no undefined word (R61, R62, R177). -/
theorem Sound.exists_ctrlStep {s : State} (hs : Sound s) : ∃ t, CtrlStep s t := by
  cases ho : s.outstanding with
  | some w =>
    rcases commandNow_eq_some (hs.sequencer.outstanding_now w ho) with ⟨hp, rfl⟩ | ⟨hp, hc, rfl⟩ | ⟨hp, rfl⟩
    · by_cases hn : s.stepNo = 6
      · exact ⟨_, .handshakeEnded ho hp hn⟩
      · exact ⟨_, .handshakeAdvanced ho hp hn⟩
    · have hd := hs.capture.room hc (by simp [ho])
      by_cases hl : s.lastv = false ∨ s.last ≠ s.lineLevel
      · exact ⟨_, .changed ho hp hc hd hl⟩
      · obtain ⟨hv, hl⟩ : s.lastv = true ∧ s.last = s.lineLevel := by simpa using hl
        by_cases hu : (s.unchanged + 1).toNat = 200
        · exact ⟨_, .settled ho hp hc hd hv hl hu⟩
        · exact ⟨_, .unchanged ho hp hc hd hv hl hu⟩
    · by_cases hn : s.tries = s.maxTries
      · exact ⟨_, .exhausted ho hp hn⟩
      · exact ⟨_, .retried ho hp hn⟩
  | none =>
    by_cases hr : s.rstate = .attempting
    · cases hp : s.phase with
      | idle => exact absurd hp (hs.sequencer.busy_iff.2 hr)
      | acqRequest => exact ⟨_, .handshakeIssued ho hr hp⟩
      | acqPoll =>
        by_cases hc : s.polling = true
        · by_cases hn : s.tlen = Config.traceDepth
          · exact ⟨_, .timedOut ho hr hp hc hn⟩
          · exact ⟨_, .pollIssued ho hr hp hc hn⟩
        · exact ⟨_, .captureStarted ho hr hp (by simpa using hc)⟩
      | extract =>
        obtain ⟨ls, hls⟩ := s.readTrace_of_written (hs.capture.written (.inr hp))
        by_cases hn : (Scan.trace s.pw ls).pcount.toNat = Config.nBits
        · exact ⟨_, .extracted ls ho hr hp hls hn⟩
        · exact ⟨_, .misread ls ho hr hp hls hn⟩
      | decode => exact ⟨_, .decoded ho hr hp⟩
      | validate =>
        by_cases hsum : frameByte s.acc 4 = frameSum s.acc
        · exact ⟨_, .accepted ho hr hp hsum⟩
        · exact ⟨_, .rejected ho hr hp hsum⟩
      | backoff => exact ⟨_, .delayIssued ho hr hp⟩
    · exact ⟨_, .waited ho hr⟩

/-! ## What a step needs to write for a part of the invariant to be at stake -/

/-- Nothing outstanding, and no capture in progress: only PHASE, STEP and RSTATE matter. -/
theorem SequencerInv.of_quiet {t : State} (hb : t.phase ≠ .idle ↔ t.rstate = .attempting)
    (hz : t.phase ≠ .acqRequest → t.stepNo = 0) (hc : t.polling = false) (ho : t.outstanding = none) :
    SequencerInv t :=
  ⟨hb, hz, by simp [hc], by simp [ho]⟩

/-- Outside ACQ_POLL and EXTRACT the trace need only keep its form and its bounds. -/
theorem CaptureInv.of_idle {s t : State} (h : CaptureInv s) (htrace : t.trace = s.trace) (htlen : t.tlen = s.tlen)
    (hu : t.unchanged = s.unchanged) (hc : t.polling = false) (hp : t.phase ≠ .extract) : CaptureInv t where
  trace_wf := htrace ▸ h.trace_wf
  trace_inside := htrace ▸ h.trace_inside
  tlen_le := htlen ▸ h.tlen_le
  written := by simp [hc, hp]
  room := by simp [hc]
  unchanged_le := hu ▸ h.unchanged_le
  unchanged_lt := by simp [hc]
  first_poll := by simp [hc]

theorem ResultInv.of_same {s t : State} (h : ResultInv s) (hr : t.rstate = s.rstate) (hs : t.status = s.status)
    (ht : t.temperature = s.temperature) (hh : t.humidity = s.humidity) : ResultInv t :=
  ⟨by rw [hs, hr]; exact h.ok_iff, by rw [hs]; exact h.no_checksum_error, by rw [hs, ht, hh]; exact h.sentinel,
    by rw [hs, ht]; exact h.temperature_range, by rw [hs, hh]; exact h.humidity_range⟩

/-- A failure or an attempt in progress with the sentinel Reading. -/
theorem ResultInv.of_sentinel {t : State} (hr : t.rstate ≠ .succeeded) (hs : t.status = .timeoutError)
    (ht : t.temperature = sentinelTenths) (hh : t.humidity = sentinelTenths) : ResultInv t :=
  ⟨by simp [hs, hr], by simp [hs], fun _ => ⟨ht, hh⟩, by simp [hs], by simp [hs]⟩

theorem CounterInv.of_same {s t : State} (h : CounterInv s) (hn : t.pcount = s.pcount) (hr : t.run = s.run)
    (hmin : t.wmin = s.wmin) (hmax : t.wmax = s.wmax) (hpw : t.pw = s.pw) (hp : t.phase ≠ .decode) : CounterInv t where
  pcount_le := hn ▸ h.pcount_le
  run_le := hr ▸ h.run_le
  wmin_le := hmin ▸ h.wmin_le
  wmax_le := hmax ▸ h.wmax_le
  pw_le := hpw ▸ h.pw_le
  decode_ready hd := absurd hd hp

theorem PinInv.of_same {s t : State} (h : PinInv s) (hpin : t.pin = s.pin) (hlog : t.portLog = s.portLog)
    (hl : listening t.phase = true → listening s.phase = true) : PinInv t :=
  ⟨fun ht => by rw [hpin, hlog]; exact h.listening_input (hl ht)⟩

theorem PinInv.of_deaf {t : State} (hl : listening t.phase = false) : PinInv t := ⟨by simp [hl]⟩

/-! ## CTRL and the PORT keep each part of the invariant -/

/-- A capture is in progress in ACQ_POLL only. -/
theorem SequencerInv.polling_false {s : State} (h : SequencerInv s) (hp : s.phase ≠ .acqPoll) : s.polling = false :=
  Bool.eq_false_iff.2 fun hc => hp (h.polling_phase hc)

/-- PHASE, STEP and the outstanding command (10_state R21, R22; 45_retry R177). -/
theorem SequencerInv.ctrlStep {s t : State} (hs : SequencerInv s) (h : CtrlStep s t) : SequencerInv t := by
  have stepZero {p : Phase} (hp : s.phase = p) (hne : p ≠ .acqRequest) : s.stepNo = 0 := hs.step_zero (hp ▸ hne)
  have quiet {p : Phase} (hp : s.phase = p) (hne : p ≠ .acqPoll) : s.polling = false := hs.polling_false (hp ▸ hne)
  have busy {p : Phase} (hp : s.phase = p) (hne : p ≠ .idle) : s.rstate = .attempting := hs.busy_iff.1 (hp ▸ hne)
  cases h with
  | waited ho hr => exact hs
  | handshakeIssued ho hr hp => exact ⟨hs.busy_iff, hs.step_zero, hs.polling_phase, by simp [commandNow, hp]⟩
  | handshakeAdvanced ho hp hn =>
    exact .of_quiet (by simpa using hs.busy_iff) (by simp [hp]) (by simpa using quiet hp (by simp)) rfl
  | handshakeEnded ho hp hn => exact .of_quiet (by simpa using busy hp) (by simp) (by simpa using quiet hp (by simp)) rfl
  | captureStarted ho hr hp hc =>
    exact ⟨by simpa using hs.busy_iff, hs.step_zero, fun _ => hp, by simp [commandNow, hp]⟩
  | pollIssued ho hr hp hc hn => exact ⟨hs.busy_iff, hs.step_zero, hs.polling_phase, by simp [commandNow, hp, hc]⟩
  | timedOut ho hr hp hc hn => exact .of_quiet (by simpa using hr) (by simpa using stepZero hp) rfl ho
  | changed ho hp hc hd hl =>
    exact ⟨by simpa using hs.busy_iff, by simpa using hs.step_zero, by simpa using hs.polling_phase, by simp⟩
  | settled ho hp hc hd hv hl hu => exact .of_quiet (by simpa using busy hp) (by simpa using stepZero hp) rfl (by simp)
  | unchanged ho hp hc hd hv hl hu =>
    exact ⟨by simpa using hs.busy_iff, by simpa using hs.step_zero, by simpa using hs.polling_phase, by simp⟩
  | extracted ls ho hr hp hls hn => exact .of_quiet (by simpa using hr) (by simpa using stepZero hp) (quiet hp nofun) ho
  | misread ls ho hr hp hls hn => exact .of_quiet (by simpa using hr) (by simpa using stepZero hp) rfl ho
  | decoded ho hr hp => exact .of_quiet (by simpa using hr) (by simpa using stepZero hp) (quiet hp nofun) ho
  | accepted ho hr hp hsum => exact .of_quiet (by simp) (by simpa using stepZero hp) (quiet hp nofun) ho
  | rejected ho hr hp hsum => exact .of_quiet (by simpa using hr) (by simpa using stepZero hp) rfl ho
  | delayIssued ho hr hp => exact ⟨hs.busy_iff, hs.step_zero, hs.polling_phase, by simp [commandNow, hp]⟩
  | exhausted ho hp hn => exact .of_quiet (by simp) (by simpa using stepZero hp) (quiet hp nofun) rfl
  | retried ho hp hn => exact .of_quiet (by simpa using busy hp) (by simp) (quiet hp nofun) rfl

/-- A polled sample lands at TLEN below TRACE_DEPTH, and a previous sample exists from then on (41_sampler R124, 20_memory
R62). -/
theorem CaptureInv.of_sample {s t : State} (h : CaptureInv s) (hc : s.polling = true) (hd : s.tlen < Config.traceDepth)
    (c : Level) (htrace : t.trace = s.trace.writeByte s.tlen (levelByte c)) (htlen : t.tlen = s.tlen + 1)
    (ho : t.outstanding = none) (hv : t.lastv = true) (hu : t.unchanged.toNat ≤ Config.unchangedThreshold)
    (hlt : t.polling = true → t.unchanged.toNat < Config.unchangedThreshold) : CaptureInv t where
  trace_wf := htrace ▸ Memory.wf_writeByte _ _ _ (levelByte_lt_two c) h.trace_wf
  trace_inside a ha := by
    by_cases hat : a = s.tlen
    · omega
    · rw [htrace, Memory.readByte_writeByte_other _ _ hat] at ha
      exact h.trace_inside a ha
  tlen_le := by omega
  written _ i hi := by
    rw [htrace]
    by_cases hat : i = s.tlen
    · simp [hat]
    · rw [Memory.readByte_writeByte_other _ _ hat]
      exact h.written (.inl hc) i (by omega)
  room := by simp [ho]
  unchanged_le := hu
  unchanged_lt := hlt
  first_poll := by simp [hv]

/-- The unchanged count rises by 1, without wrapping, while a capture is in progress (10_state R26). -/
theorem CaptureInv.unchanged_succ {s : State} (h : CaptureInv s) (hc : s.polling = true) :
    (s.unchanged + 1).toNat = s.unchanged.toNat + 1 := by
  have := h.unchanged_lt hc
  rw [Config.unchangedThreshold] at this
  rw [BitVec.toNat_add]
  exact Nat.mod_eq_of_lt (by simp; omega)

/-- The trace and the change detector (10_state R26, R27, R36; 20_memory R60 to R62). -/
theorem CaptureInv.ctrlStep {s t : State} (hs : CaptureInv s) (hq : SequencerInv s) (h : CtrlStep s t) :
    CaptureInv t := by
  have quiet : s.phase ≠ .acqPoll → s.polling = false := hq.polling_false
  cases h with
  | waited ho hr => exact hs
  | captureStarted ho hr hp hc =>
    exact ⟨hs.trace_wf, hs.trace_inside, Nat.zero_le _, by simp, by simp [Config.traceDepth], by simp,
      by simp [Config.unchangedThreshold], by simp⟩
  | pollIssued ho hr hp hc hn =>
    exact ⟨hs.trace_wf, hs.trace_inside, hs.tlen_le, hs.written, fun _ _ => Nat.lt_of_le_of_ne hs.tlen_le hn,
      hs.unchanged_le, hs.unchanged_lt, hs.first_poll⟩
  | changed ho hp hc hd hl =>
    exact hs.of_sample hc hd s.lineLevel (by simp) (by simp) (by simp) rfl (by simp) (by simp [Config.unchangedThreshold])
  | settled ho hp hc hd hv hl hu =>
    exact hs.of_sample hc hd s.lineLevel (by simp) (by simp) (by simp) (by simpa using hv)
      (by simpa [Config.unchangedThreshold] using hu.le) (by simp)
  | unchanged ho hp hc hd hv hl hu =>
    have hlt : (s.unchanged + 1).toNat < Config.unchangedThreshold :=
      Nat.lt_of_le_of_ne (hs.unchanged_succ hc ▸ hs.unchanged_lt hc) hu
    exact hs.of_sample hc hd s.lineLevel (by simp) (by simp) (by simp) (by simpa using hv) (by simpa using hlt.le)
      (fun _ => by simpa using hlt)
  | _ => exact hs.of_idle rfl rfl rfl (by simp [*]) (by simp [*])

/-- TRIES of an attempt that stays as it is. -/
theorem RetryInv.of_same {s t : State} (h : RetryInv s) (hr : t.rstate = s.rstate) (ht : t.tries = s.tries)
    (hm : t.maxTries = s.maxTries) (hp : t.phase = .backoff ↔ s.phase = .backoff) : RetryInv t where
  tries_lt := by rw [hr, ht, hm, Ne, hp]; exact h.tries_lt
  tries_le := by rw [ht, hm, hp]; exact h.tries_le
  tries_idle := by rw [hr, ht]; exact h.tries_idle

/-- A failed attempt counts, without wrapping, since TRIES was below MAX_TRIES (45_retry R172). -/
theorem RetryInv.failAttempt {s : State} (h : RetryInv s) (hr : s.rstate = .attempting) (hp : s.phase ≠ .backoff)
    (cls : Attempt) : RetryInv (s.failAttempt cls) where
  tries_lt _ hb := absurd rfl hb
  tries_le _ := by
    have hlt := h.tries_lt hr hp
    have hsucc : (s.tries + 1).toNat = s.tries.toNat + 1 := by
      rw [BitVec.toNat_add]
      exact Nat.mod_eq_of_lt (by simp; omega)
    simp only [State.failAttempt_tries, State.failAttempt_maxTries, hsucc]
    omega
  tries_idle hi := by simp [hr] at hi

/-- An outcome, or a wait, outside an attempt: TRIES is only seen. -/
theorem RetryInv.of_ended {t : State} (hr : t.rstate ≠ .attempting) (hi : t.rstate ≠ .idle) (hp : t.phase ≠ .backoff) :
    RetryInv t :=
  ⟨fun h => absurd h hr, fun h => absurd h hp, fun h => absurd h hi⟩

/-- The attempt counter (10_state R23). -/
theorem RetryInv.ctrlStep {s t : State} (hs : RetryInv s) (hb : s.phase = .backoff → s.rstate = .attempting)
    (h : CtrlStep s t) : RetryInv t := by
  cases h with
  | waited ho hr => exact hs
  | timedOut ho hr hp hc hn => exact hs.failAttempt hr (by simp [hp]) _
  | changed | settled | unchanged => exact hs.of_same (by simp) (by simp) (by simp) (by simp [*])
  | misread ls ho hr hp hls hn =>
    have hscan : RetryInv (s.storeScan (Scan.trace s.pw ls)) := hs.of_same rfl rfl rfl Iff.rfl
    exact hscan.failAttempt hr (by simp [hp]) _
  | accepted | exhausted => exact .of_ended (by simp) (by simp) (by simp)
  | rejected ho hr hp hsum =>
    have hstored : RetryInv s.storeSum := hs.of_same rfl rfl rfl Iff.rfl
    exact hstored.failAttempt hr (by simp [hp]) _
  | retried ho hp hn =>
    have hlt : s.tries.toNat < s.maxTries.toNat :=
      Nat.lt_of_le_of_ne (hs.tries_le hp).2 fun he => hn (BitVec.eq_of_toNat_eq he)
    exact ⟨fun _ _ => hlt, by simp, by simp [hb hp]⟩
  | _ => exact hs.of_same rfl rfl rfl (by simp [*])

/-- The magnitude of the temperature (44_validator R163, R166). -/
theorem temperatureMagnitude_le (acc : BitVec 40) : temperatureMagnitude acc ≤ 2677 := by
  have h2 := (frameByte acc 2).isLt
  have h3 := ((frameByte acc 3).extractLsb' 0 7).isLt
  unfold temperatureMagnitude
  omega

theorem temperatureTenths_range (acc : BitVec 40) :
    -2677 ≤ temperatureTenths acc ∧ temperatureTenths acc ≤ 2677 := by
  have := temperatureMagnitude_le acc
  unfold temperatureTenths
  split <;> omega

theorem humidityTenths_range (acc : BitVec 40) : 0 ≤ humidityTenths acc ∧ humidityTenths acc ≤ 2805 := by
  have h0 := (frameByte acc 0).isLt
  have h1 := (frameByte acc 1).isLt
  unfold humidityTenths
  omega

/-- The Reading of an accepted frame is in range (44_validator R166). -/
theorem ResultInv.succeed (s : State) (acc : BitVec 40) :
    ResultInv (s.succeed (toTenths (temperatureTenths acc)) (toTenths (humidityTenths acc))) := by
  have ht := temperatureTenths_range acc
  have hh := humidityTenths_range acc
  refine ⟨by simp, by simp, by simp, fun _ => ?_, fun _ => ?_⟩
  · simpa [toInt_toTenths _ (by omega : -4096 ≤ temperatureTenths acc) (by omega)] using ht
  · simpa [toInt_toTenths _ (by omega : -4096 ≤ humidityTenths acc) (by omega)] using hh

/-- The Reading (10_state R47, 45_retry R180, 44_validator R166). -/
theorem ResultInv.ctrlStep {s t : State} (hs : ResultInv s) (hb : s.phase = .backoff → s.rstate = .attempting)
    (h : CtrlStep s t) : ResultInv t := by
  cases h with
  | accepted ho hr hp hsum => exact .succeed _ _
  | exhausted ho hp hn =>
    obtain ⟨ht, hh⟩ := hs.sentinel fun hok => by simp [hs.ok_iff.1 hok] at hb; exact hb hp
    exact .of_sentinel (by simp) rfl ht hh
  | changed | settled | unchanged => exact hs.of_same (by simp) (by simp) (by simp) (by simp)
  | _ => exact hs.of_same rfl rfl rfl rfl

/-- EXTRACT's counts: at most one per sample, and a width of at least 1 in every entry if forty were emitted (10_state R29 to
R31, 20_memory R64). -/
theorem CounterInv.of_scan {s t : State} (h : CounterInv s) {ls : List Level} (hl : ls.length ≤ Config.traceDepth)
    (hn : t.pcount = (Scan.trace s.pw ls).pcount) (hr : t.run = (Scan.trace s.pw ls).run) (hmin : t.wmin = s.wmin)
    (hmax : t.wmax = s.wmax) (hpw : t.pw = (Scan.trace s.pw ls).pw)
    (hp : t.phase = .decode → (Scan.trace s.pw ls).pcount.toNat = Config.nBits) : CounterInv t := by
  have hb := Scan.trace_bounded h.pw_le hl
  refine ⟨hn ▸ hb.pcount_le, hr ▸ hb.run_le.trans hl, hmin ▸ h.wmin_le, hmax ▸ h.wmax_le, hpw ▸ hb.mem_le, fun hd => ?_⟩
  rw [hn, hpw]
  exact ⟨hp hd, hb.mem_pos (hp hd)⟩

/-- DECODE's least and greatest width are widths (43_decoder R151). -/
theorem leastWidth_mem {ws : List Nat} (h : ws ≠ []) : leastWidth ws ∈ ws := by
  cases ws with
  | nil => exact absurd rfl h
  | cons w ws => exact (leastWidth_spec w ws).1

theorem greatestWidth_mem {ws : List Nat} (h : ws ≠ []) : greatestWidth ws ∈ ws := by
  cases ws with
  | nil => exact absurd rfl h
  | cons w ws => exact (greatestWidth_spec w ws).1

/-- The counters (10_state R29 to R32, 20_memory R64). -/
theorem CounterInv.ctrlStep {s t : State} (hs : CounterInv s) (hl : s.tlen ≤ Config.traceDepth) (h : CtrlStep s t) :
    CounterInv t := by
  have length_le {ls : List Level} (hls : s.readTrace = .ok ls) : ls.length ≤ Config.traceDepth :=
    ((s.readTrace_eq_ok_iff ls).1 hls).1 ▸ hl
  cases h with
  | waited ho hr => exact hs
  | changed | settled | unchanged =>
    exact hs.of_same (by simp) (by simp) (by simp) (by simp) (by simp) (by simp [*])
  | extracted ls ho hr hp hls hn => exact hs.of_scan (length_le hls) rfl rfl rfl rfl rfl fun _ => hn
  | misread ls ho hr hp hls hn => exact hs.of_scan (length_le hls) rfl rfl rfl rfl rfl (by simp)
  | decoded ho hr hp =>
    have hne : s.pw.toList ≠ [] := List.ne_nil_of_length_pos (by simp)
    exact ⟨hs.pcount_le, hs.run_le, hs.pw_le _ (leastWidth_mem hne), hs.pw_le _ (greatestWidth_mem hne), hs.pw_le, by simp⟩
  | _ => exact hs.of_same rfl rfl rfl rfl rfl (by simp [*])

/-- A completed poll leaves the pin an input (40_gpio R114). -/
theorem PinInv.of_poll {s t : State} (h : PinInv s) (hp : s.phase = .acqPoll) (hpin : t.pin = s.pin)
    (hlog : t.portLog = .completed (pinReadWord s.pin) :: s.portLog) : PinInv t :=
  ⟨fun _ => by rw [hpin, hlog, pinLeft_pinRead]; exact h.listening_input (by simp [hp, listening])⟩

/-- The pin is an input from the end of ACQ_REQUEST to the end of BACKOFF (45_retry R177). -/
theorem PinInv.ctrlStep {s t : State} (hs : PinInv s) (h : CtrlStep s t) : PinInv t := by
  cases h with
  | waited ho hr => exact hs
  | handshakeAdvanced ho hp hn => exact .of_deaf (by simp [hp, listening])
  | handshakeEnded ho hp hn => exact ⟨fun _ => by simpa [hn, handshakeWord] using pinLeft_cfgIn s.pin s.portLog⟩
  | changed ho hp | settled ho hp | unchanged ho hp => exact hs.of_poll hp (by simp) (by simp)
  | exhausted | retried => exact .of_deaf rfl
  | _ => exact hs.of_same rfl rfl (by simp [listening, *])

/-- CTRL and the PORT keep a sound state sound. -/
theorem Sound.ctrlStep {s t : State} (hs : Sound s) (h : CtrlStep s t) : Sound t := by
  have busy (hp : s.phase = .backoff) : s.rstate = .attempting := hs.sequencer.busy_iff.1 (by simp [hp])
  exact ⟨hs.sequencer.ctrlStep h, hs.capture.ctrlStep hs.sequencer h, hs.retry.ctrlStep busy h, hs.result.ctrlStep busy h,
    hs.counters.ctrlStep hs.capture.tlen_le h, hs.pinInput.ctrlStep h⟩

end Sys2Proof.Safety

namespace Sys2Proof.Machine

/-! ## Host writes, by the state they meet (10_state R41 to R51) -/

/-- While BUSY = 1 a write to CMD or a configuration register is refused (10_state R51, U2). -/
theorem hostWriteRegister_refused {reg : RegNum} {s : State} (data : HostWord) (hr : s.rstate = .attempting)
    (hreg : reg.toNat ≤ 4) : (hostWriteRegister reg data s).perform = .refused (.hostWriteWhileBusy reg) := by
  rcases regNum_cases reg with rfl | rfl | rfl | rfl | rfl | hge
  · rcases hostWriteRegister_cmd data s with ⟨-, hw⟩ | ⟨-, hw⟩ <;> rw [hw]
    · exact if_pos (s.busy_iff.2 hr)
    · rw [State.guardedWrite_busy _ _ hr]; rfl
  · exact congrArg Fetched.perform (State.guardedWrite_busy _ _ hr)
  · exact congrArg Fetched.perform (State.guardedWrite_busy _ _ hr)
  · exact congrArg Fetched.perform (State.guardedWrite_busy _ _ hr)
  · exact congrArg Fetched.perform (State.guardedWrite_busy _ _ hr)
  · omega

/-- The registers between CMD and the read-only ones are those of the configuration (10_state R40). -/
theorem regNum_configuration {reg : RegNum} (h0 : reg ≠ 0) (hlt : ¬ 5 ≤ reg.toNat) :
    reg = 1 ∨ reg = 2 ∨ reg = 3 ∨ reg = 4 := by
  rcases regNum_cases reg with h | h | h | h | h | h
  · exact absurd h h0
  · exact .inl h
  · exact .inr (.inl h)
  · exact .inr (.inr (.inl h))
  · exact .inr (.inr (.inr h))
  · exact absurd h hlt

/-- s with one configuration register set, as the host write of register 1 to 4 does while BUSY = 0 (10_state R42
to R45). -/
def State.configure (s : State) (reg : RegNum) (data : HostWord) : State :=
  if reg = 1 then s.setPin data else if reg = 2 then s.setMaxTries data else if reg = 3 then s.setMinInterval data
  else s.setPolicy data

/-- While BUSY = 0 a write to a configuration register sets it (10_state R42 to R45). -/
theorem hostWriteRegister_configures {reg : RegNum} {s : State} (data : HostWord) (hr : s.rstate ≠ .attempting)
    (hreg : reg = 1 ∨ reg = 2 ∨ reg = 3 ∨ reg = 4) :
    (hostWriteRegister reg data s).perform = .next (s.configure reg data) := by
  rcases hreg with rfl | rfl | rfl | rfl <;>
    exact congrArg Fetched.perform (State.guardedWrite_free _ _ hr)

/-- While BUSY = 0 a write to CMD performs READ, has no effect, or is refused, by the code (10_state R41, 30_encoding R96). -/
theorem hostWriteRegister_commands {s : State} (data : HostWord) (hr : s.rstate ≠ .attempting) :
    (hostWriteRegister 0 data s).perform =
      if commandCode data = 0x01 then .next s.beginRead else s.otherCommand (commandCode data) := by
  rcases hostWriteRegister_cmd data s with ⟨hc, hw⟩ | ⟨hc, hw⟩ <;> rw [hw]
  · rw [if_pos hc]; exact (execRead_eq_next_iff s _).2 ⟨hr, rfl⟩
  · rw [if_neg hc, State.guardedWrite_free _ _ hr]; rfl

/-- A host write that is not refused starts a READ or sets a configuration register, while BUSY = 0, or changes nothing. -/
theorem hostWriteRegister_eq_next {reg : RegNum} {data : HostWord} {s t : State}
    (h : (hostWriteRegister reg data s).perform = .next t) :
    t = s ∨ (s.rstate ≠ .attempting ∧ (t = s.beginRead ∨ t = s.configure reg data)) := by
  by_cases hr : s.rstate = .attempting
  · exact .inl (hostWriteRegister_busy h hr)
  by_cases hge : 5 ≤ reg.toNat
  · rw [hostWriteRegister_other _ _ _ hge] at h
    cases h
    exact .inl rfl
  by_cases h0 : reg = 0
  · rw [h0, hostWriteRegister_commands data hr] at h
    split at h
    · cases h
      exact .inr ⟨hr, .inl rfl⟩
    · exact .inl (State.otherCommand_eq_next h)
  · rw [hostWriteRegister_configures data hr (regNum_configuration h0 hge)] at h
    cases h
    exact .inr ⟨hr, .inr rfl⟩

end Sys2Proof.Machine

namespace Sys2Proof.Safety

open Sys2Proof.Machine

/-! ## The outside keeps a sound state sound -/

/-- Soundness does not speak of what the HOST will do or has read. -/
theorem Sound.outside {s : State} (hs : Sound s) (env : List EnvEvent) (rdata : HostWord) :
    Sound { s with env := env, rdata := rdata } :=
  ⟨⟨hs.sequencer.busy_iff, hs.sequencer.step_zero, hs.sequencer.polling_phase, hs.sequencer.outstanding_now⟩,
    ⟨hs.capture.trace_wf, hs.capture.trace_inside, hs.capture.tlen_le, hs.capture.written, hs.capture.room,
      hs.capture.unchanged_le, hs.capture.unchanged_lt, hs.capture.first_poll⟩,
    hs.retry.of_same rfl rfl rfl Iff.rfl, hs.result.of_same rfl rfl rfl rfl,
    ⟨hs.counters.pcount_le, hs.counters.run_le, hs.counters.wmin_le, hs.counters.wmax_le, hs.counters.pw_le,
      hs.counters.decode_ready⟩,
    hs.pinInput.of_same rfl rfl id⟩

/-- Outside an attempt the sequencer rests. -/
theorem SequencerInv.rests {s : State} (h : SequencerInv s) (hr : s.rstate ≠ .attempting) :
    s.phase = .idle ∧ s.stepNo = 0 ∧ s.polling = false ∧ s.outstanding = none := by
  have hp : s.phase = .idle := by
    by_contra hne
    exact hr (h.busy_iff.1 hne)
  refine ⟨hp, h.step_zero (by simp [hp]), h.polling_false (by simp [hp]), ?_⟩
  cases ho : s.outstanding with
  | none => rfl
  | some w => simpa [commandNow, hp] using h.outstanding_now w ho

/-- Outside an attempt the configuration may take any value (10_state R51). -/
theorem Sound.reconfigure {s : State} (hs : Sound s) (hr : s.rstate ≠ .attempting) (pin : Pin) (maxTries : BitVec 8)
    (minInterval : BitVec 32) (raise : Bool) :
    Sound { s with pin := pin, maxTries := maxTries, minInterval := minInterval, raise := raise } := by
  obtain ⟨hp, -, hc, ho⟩ := hs.sequencer.rests hr
  exact ⟨.of_quiet hs.sequencer.busy_iff hs.sequencer.step_zero hc ho, hs.capture.of_idle rfl rfl rfl hc (by simp [hp]),
    ⟨fun h => absurd h hr, by simp [hp], hs.retry.tries_idle⟩, hs.result.of_same rfl rfl rfl rfl,
    hs.counters.of_same rfl rfl rfl rfl rfl (by simp [hp]), .of_deaf (by simp [hp, listening])⟩

theorem Sound.configure {s : State} (hs : Sound s) (hr : s.rstate ≠ .attempting) (reg : RegNum) (data : HostWord) :
    Sound (s.configure reg data) := by
  unfold State.configure
  split
  · exact hs.reconfigure hr _ s.maxTries s.minInterval s.raise
  split
  · exact hs.reconfigure hr s.pin _ s.minInterval s.raise
  split
  · exact hs.reconfigure hr s.pin s.maxTries _ s.raise
  · exact hs.reconfigure hr s.pin s.maxTries s.minInterval _

/-- READ starts an attempt below MAX_TRIES, or ends at once in Failed (45_retry R176, R183). -/
theorem Sound.beginRead {s : State} (hs : Sound s) (hr : s.rstate ≠ .attempting) : Sound s.beginRead := by
  obtain ⟨hp, -, hc, ho⟩ := hs.sequencer.rests hr
  rcases s.beginRead_cases with ⟨-, hb⟩ | ⟨hm, hb⟩ <;> rw [hb]
  · exact ⟨.of_quiet (by simp [hp]) hs.sequencer.step_zero hc ho, hs.capture.of_idle rfl rfl rfl hc (by simp [hp]),
      .of_ended (by simp) (by simp) (by simp [hp]), .of_sentinel (by simp) rfl rfl rfl,
      hs.counters.of_same rfl rfl rfl rfl rfl (by simp [hp]), .of_deaf (by simp [hp, listening])⟩
  · have hpos : 0 < s.maxTries.toNat := Nat.pos_of_ne_zero fun h0 => hm (BitVec.eq_of_toNat_eq h0)
    exact ⟨.of_quiet (by simp) (by simp) hc ho, hs.capture.of_idle rfl rfl rfl hc (by simp),
      ⟨fun _ _ => hpos, by simp, by simp⟩, .of_sentinel (by simp) rfl rfl rfl,
      hs.counters.of_same rfl rfl rfl rfl rfl (by simp), .of_deaf rfl⟩

/-- A reset leads to a sound state from any state (10_state R37, 70_reset R220). -/
theorem sound_applyReset (s : State) : Sound s.applyReset where
  sequencer := .of_quiet (by simp [State.applyReset, State.reset]) (fun _ => rfl) rfl rfl
  capture := ⟨State.reset_trace_wf, by simp [State.applyReset, State.reset], Nat.zero_le _,
    by simp [State.applyReset, State.reset], nofun, Nat.zero_le _, nofun, nofun⟩
  retry := ⟨nofun, nofun, fun _ => rfl⟩
  result := .of_sentinel nofun rfl rfl rfl
  counters := ⟨Nat.zero_le _, Nat.zero_le _, Nat.zero_le _, Nat.zero_le _, by simp [State.applyReset, State.reset], nofun⟩
  pinInput := .of_deaf rfl

/-- A step of CTRL and the PORT from a sound state leads to a sound state. -/
theorem Sound.ctrlFetch {s t : State} (hs : Sound s) (h : (ctrlFetch s).perform = .next t) : Sound t := by
  obtain ⟨u, hu⟩ := hs.exists_ctrlStep
  rw [hu.perform] at h
  cases h
  exact hs.ctrlStep hu

/-! ## The obligations on the invariant -/

/-- Settles O54: a reset of the reset state is the reset state. -/
theorem resetStateIsSound : Obligations.ResetStateIsSound := sound_applyReset State.reset

/-- Settles O55, by what takes the step: CTRL and the PORT (`CtrlStep`), a reset, or a host access. -/
theorem stepKeepsStateSound : Obligations.StepKeepsStateSound := by
  intro s t hs h
  cases henv : s.env with
  | nil =>
    rw [step_nil henv] at h
    exact hs.ctrlFetch h
  | cons e rest =>
    rw [step_cons henv] at h
    have hrest := hs.outside rest s.rdata
    cases e with
    | hostRead reg => cases h; exact hs.outside rest _
    | hostWrite reg data =>
      rcases hostWriteRegister_eq_next h with rfl | ⟨hr, rfl | rfl⟩
      · exact hrest
      · exact hrest.beginRead hr
      · exact hrest.configure hr reg data
    | reset => cases h; exact sound_applyReset _
    | pass => exact hrest.ctrlFetch h

/-! ## Stale values (10_state R36, 70_reset R222) -/

/-- s with the attempt-scoped registers of r, the fields that `SameButStale` leaves open. -/
def withStale (s r : State) : State :=
  { s with
    att := r.att, lastv := r.lastv, last := r.last, unchanged := r.unchanged, tlen := r.tlen, trace := r.trace, xs := r.xs,
    run := r.run, pcount := r.pcount, pw := r.pw, wmin := r.wmin, wmax := r.wmax, acc := r.acc, sum := r.sum }

theorem SameButStale.refl (s : State) : SameButStale s s :=
  ⟨rfl, fun _ => ⟨rfl, fun _ => rfl, rfl⟩, fun _ => ⟨rfl, fun _ _ => rfl⟩, fun _ => rfl, fun _ => rfl⟩

theorem SameButStale.exists_withStale {s t : State} (h : SameButStale s t) : ∃ r, t = withStale s r := ⟨t, h.same⟩

/-- Where nothing attempt-scoped is live, agreeing on the other registers is enough. -/
theorem SameButStale.of_quiet {s t : State} (same : t = withStale s t) (hc : s.polling = false)
    (hp : s.phase ≠ .extract ∧ s.phase ≠ .decode ∧ s.phase ≠ .validate) : SameButStale s t :=
  ⟨same, by simp [hc], by simp [hc, hp.1], fun h => absurd h hp.2.1, fun h => absurd h hp.2.2⟩

/-- The trace that EXTRACT reads is the same. -/
theorem SameButStale.readTrace {s t : State} (h : SameButStale s t) (hp : s.phase = .extract) {ls : List Level}
    (hls : s.readTrace = .ok ls) : t.readTrace = .ok ls := by
  obtain ⟨htlen, hread⟩ := h.traces (.inr hp)
  obtain ⟨hlen, hlevel⟩ := (s.readTrace_eq_ok_iff ls).1 hls
  refine (t.readTrace_eq_ok_iff ls).2 ⟨htlen ▸ hlen, fun i hi => ?_⟩
  rw [htlen] at hi
  rw [← hlevel i hi, Memory.readLevel, hread i hi, Memory.readLevel]

/-- The LINE's move does not look at the stale registers. -/
theorem advanceLine_withStale (s r : State) : (withStale s r).advanceLine = withStale s.advanceLine r := by
  cases hl : s.line with
  | nil => simp only [State.advanceLine, withStale, hl]
  | cons l rest => simp only [State.advanceLine, withStale, hl]

theorem sampled_withStale (s r : State) :
    (withStale s r).sampled = withStale s.sampled (r.appendSample s.lineLevel) := by
  have move := advanceLine_withStale (s.completePort (pinReadWord s.pin)) r
  exact congrArg (State.appendSample s.lineLevel) move

/-- A polled sample lands at the same entry of both traces (41_sampler R124). -/
theorem SameButStale.sampled {s r : State} (h : SameButStale s (withStale s r)) (hc : s.polling = true) :
    SameButStale s.sampled (withStale s.sampled (r.appendSample s.lineLevel)) := by
  obtain ⟨htlen, hread⟩ : r.tlen = s.tlen ∧ ∀ i, i < s.tlen → r.trace.readByte i = s.trace.readByte i :=
    h.traces (.inl hc)
  refine ⟨rfl, fun _ => ?_, fun _ => ⟨?_, fun i hi => ?_⟩, ?_, ?_⟩
  · simpa [withStale] using h.capture hc
  · simp [withStale, htlen]
  · simp only [withStale, State.appendSample_trace, State.advanceLine_trace, State.completePort_trace,
      State.advanceLine_tlen, State.completePort_tlen, htlen]
    by_cases hat : i = s.tlen
    · simp [hat]
    · rw [Memory.readByte_writeByte_other _ _ hat, Memory.readByte_writeByte_other _ _ hat]
      exact hread i (by simp at hi; omega)
  · simpa [withStale] using h.widths
  · simpa [withStale] using h.frame

theorem SameButStale.markChange {s r : State} (h : SameButStale s (withStale s r)) (c : Level) :
    SameButStale (s.markChange c) ((withStale s r).markChange c) :=
  ⟨rfl, fun _ => ⟨rfl, fun _ => rfl, rfl⟩, h.traces, h.widths, h.frame⟩

theorem SameButStale.countUnchanged {s r : State} (h : SameButStale s (withStale s r)) :
    SameButStale s.countUnchanged (withStale s r).countUnchanged :=
  ⟨rfl, fun hc => ⟨(h.capture hc).1, (h.capture hc).2.1, congrArg (· + 1) (h.capture hc).2.2⟩, h.traces, h.widths, h.frame⟩

/-- The end of a capture hands its trace on to EXTRACT. -/
theorem SameButStale.endCapture {s t : State} (h : SameButStale s t) (hc : s.polling = true) :
    SameButStale s.endCapture t.endCapture := by
  obtain ⟨r, rfl⟩ := h.exists_withStale
  exact ⟨rfl, nofun, fun _ => h.traces (.inl hc), nofun, nofun⟩

/-- A step of CTRL and the PORT is matched from any state that differs in stale values only. -/
theorem SameButStale.ctrlStep {s s' t : State} (h : SameButStale s t) (hq : SequencerInv s) (hstep : CtrlStep s s') :
    ∃ t', CtrlStep t t' ∧ SameButStale s' t' := by
  obtain ⟨r, rfl⟩ := h.exists_withStale
  have quiet {p : Phase} (hp : s.phase = p) (hne : p ≠ .acqPoll) : s.polling = false := hq.polling_false (hp ▸ hne)
  cases hstep with
  | waited ho hr => exact ⟨_, .waited ho hr, h⟩
  | handshakeIssued ho hr hp =>
    exact ⟨_, .handshakeIssued ho hr hp, rfl, h.capture, h.traces, h.widths, h.frame⟩
  | handshakeAdvanced ho hp hn =>
    exact ⟨_, .handshakeAdvanced ho hp hn, rfl, h.capture, h.traces, h.widths, h.frame⟩
  | handshakeEnded ho hp hn => exact ⟨_, .handshakeEnded ho hp hn, .of_quiet rfl (quiet hp nofun) (by simp)⟩
  | captureStarted ho hr hp hc =>
    exact ⟨_, .captureStarted ho hr hp hc, rfl, fun _ => ⟨rfl, nofun, rfl⟩, fun _ => ⟨rfl, nofun⟩, h.widths, h.frame⟩
  | pollIssued ho hr hp hc hn =>
    have htlen : (withStale s r).tlen = s.tlen := (h.traces (.inl hc)).1
    exact ⟨_, .pollIssued ho hr hp hc (htlen ▸ hn), rfl, h.capture, h.traces, h.widths, h.frame⟩
  | timedOut ho hr hp hc hn =>
    have htlen : (withStale s r).tlen = s.tlen := (h.traces (.inl hc)).1
    exact ⟨_, .timedOut ho hr hp hc (htlen.trans hn), .of_quiet rfl rfl (by simp)⟩
  | changed ho hp hc hd hl =>
    obtain ⟨hv, hlast, -⟩ := h.capture hc
    have hl' : (withStale s r).lastv = false ∨ (withStale s r).last ≠ s.lineLevel := by
      rw [hv]
      by_cases hsv : s.lastv = true
      · exact .inr (hlast hsv ▸ hl.resolve_left (by simp [hsv]))
      · exact .inl (by simpa using hsv)
    refine ⟨_, .changed ho hp hc ((h.traces (.inl hc)).1 ▸ hd) hl', ?_⟩
    rw [sampled_withStale]
    exact (h.sampled hc).markChange _
  | settled ho hp hc hd hv hl hu =>
    obtain ⟨hv', hlast, hu'⟩ := h.capture hc
    refine ⟨_, .settled ho hp hc ((h.traces (.inl hc)).1 ▸ hd) (hv'.trans hv) ((hlast hv).trans hl) (hu' ▸ hu), ?_⟩
    rw [sampled_withStale]
    exact (h.sampled hc).countUnchanged.endCapture (by simpa using hc)
  | unchanged ho hp hc hd hv hl hu =>
    obtain ⟨hv', hlast, hu'⟩ := h.capture hc
    refine ⟨_, .unchanged ho hp hc ((h.traces (.inl hc)).1 ▸ hd) (hv'.trans hv) ((hlast hv).trans hl) (hu' ▸ hu), ?_⟩
    rw [sampled_withStale]
    exact (h.sampled hc).countUnchanged
  | extracted ls ho hr hp hls hn =>
    have agree := Scan.trace_agree s.pw (withStale s r).pw ls
    have hc : s.polling = false := quiet hp nofun
    exact ⟨_, .extracted ls ho hr hp (h.readTrace hp hls) (agree.pcount_eq ▸ hn), rfl, by simp [hc], by simp [hc],
      fun _ => agree.pw_eq_of_full hn, nofun⟩
  | misread ls ho hr hp hls hn =>
    have agree := Scan.trace_agree s.pw (withStale s r).pw ls
    exact ⟨_, .misread ls ho hr hp (h.readTrace hp hls) (agree.pcount_eq ▸ hn), .of_quiet rfl rfl (by simp)⟩
  | decoded ho hr hp =>
    have hc : s.polling = false := quiet hp nofun
    exact ⟨_, .decoded ho hr hp, rfl, by simp [hc], by simp [hc], nofun, fun _ => by simp [h.widths hp]⟩
  | accepted ho hr hp hsum =>
    have hacc := h.frame hp
    refine ⟨_, .accepted ho hr hp (by rw [hacc]; exact hsum), ?_⟩
    rw [hacc]
    exact .of_quiet rfl (quiet hp nofun) (by simp)
  | rejected ho hr hp hsum =>
    exact ⟨_, .rejected ho hr hp (by rw [h.frame hp]; exact hsum), .of_quiet rfl rfl (by simp)⟩
  | delayIssued ho hr hp => exact ⟨_, .delayIssued ho hr hp, rfl, h.capture, h.traces, h.widths, h.frame⟩
  | exhausted ho hp hn => exact ⟨_, .exhausted ho hp hn, .of_quiet rfl (quiet hp nofun) (by simp)⟩
  | retried ho hp hn => exact ⟨_, .retried ho hp hn, .of_quiet rfl (quiet hp nofun) (by simp)⟩

/-- Two answers that nothing but stale values tells apart: next states of that kind, or the same refusal. -/
def SameAnswer (a b : Result) : Prop :=
  (∃ s t, a = .next s ∧ b = .next t ∧ SameButStale s t) ∨ (∃ r, a = .refused r ∧ b = .refused r)

theorem SameAnswer.next {s t : State} (h : SameButStale s t) : SameAnswer (.next s) (.next t) := .inl ⟨s, t, rfl, rfl, h⟩

theorem SameAnswer.refused (r : Refusal) : SameAnswer (.refused r) (.refused r) := .inr ⟨r, rfl, rfl⟩

theorem SameButStale.ctrlFetch {s t : State} (h : SameButStale s t) (hs : Sound s) :
    SameAnswer (ctrlFetch s).perform (ctrlFetch t).perform := by
  obtain ⟨s', hs'⟩ := hs.exists_ctrlStep
  obtain ⟨t', ht', h'⟩ := h.ctrlStep hs.sequencer hs'
  rw [hs'.perform, ht'.perform]
  exact .next h'

/-- READ starts from a state in which nothing attempt-scoped is live. -/
theorem SameButStale.beginRead {s t : State} (h : SameButStale s t) (hq : SequencerInv s) (hr : s.rstate ≠ .attempting) :
    SameButStale s.beginRead t.beginRead := by
  obtain ⟨r, rfl⟩ := h.exists_withStale
  obtain ⟨hp, -, hc, -⟩ := hq.rests hr
  by_cases hm : s.maxTries = 0
  · rw [State.beginRead, if_pos hm, State.beginRead, if_pos (show (withStale s r).maxTries = 0 from hm)]
    exact .of_quiet rfl hc (by simp [hp])
  · rw [State.beginRead, if_neg hm, State.beginRead, if_neg (show (withStale s r).maxTries ≠ 0 from hm)]
    exact .of_quiet rfl hc (by simp)

theorem SameButStale.configure {s t : State} (h : SameButStale s t) (reg : RegNum) (data : HostWord) :
    SameButStale (s.configure reg data) (t.configure reg data) := by
  obtain ⟨r, rfl⟩ := h.exists_withStale
  unfold State.configure
  split
  · exact ⟨rfl, h.capture, h.traces, h.widths, h.frame⟩
  split
  · exact ⟨rfl, h.capture, h.traces, h.widths, h.frame⟩
  split <;> exact ⟨rfl, h.capture, h.traces, h.widths, h.frame⟩

theorem SameButStale.rstate_eq {s t : State} (h : SameButStale s t) : t.rstate = s.rstate := by rw [h.same]

/-- A host write meets the same answer: the guards look at RSTATE, the register and the data only (10_state R41 to R51). -/
theorem SameButStale.hostWriteRegister {s t : State} (h : SameButStale s t) (hq : SequencerInv s) (reg : RegNum)
    (data : HostWord) : SameAnswer (hostWriteRegister reg data s).perform (hostWriteRegister reg data t).perform := by
  by_cases hge : 5 ≤ reg.toNat
  · rw [hostWriteRegister_other _ _ _ hge, hostWriteRegister_other _ _ _ hge]
    exact .next h
  by_cases hr : s.rstate = .attempting
  · rw [hostWriteRegister_refused data hr (by omega), hostWriteRegister_refused data (h.rstate_eq.trans hr) (by omega)]
    exact .refused _
  have hr' : t.rstate ≠ .attempting := h.rstate_eq ▸ hr
  by_cases h0 : reg = 0
  · rw [h0, hostWriteRegister_commands data hr, hostWriteRegister_commands data hr']
    split
    · exact .next (h.beginRead hq hr)
    · unfold State.otherCommand
      split
      · exact .next h
      · exact .refused _
  · have hreg := regNum_configuration h0 hge
    rw [hostWriteRegister_configures data hr hreg, hostWriteRegister_configures data hr' hreg]
    exact .next (h.configure reg data)

/-- Settles O60, by what takes the step: CTRL and the PORT match it (`SameButStale.ctrlStep`), a reset leaves no difference, and a
host access does not look at what is stale. -/
theorem staleValuesNeverMatter : Obligations.StaleValuesNeverMatter := by
  intro s t hs _ h
  change SameAnswer (step s) (step t)
  obtain ⟨r, rfl⟩ := h.exists_withStale
  cases henv : s.env with
  | nil =>
    rw [step_nil henv, step_nil (s := withStale s r) henv]
    exact h.ctrlFetch hs
  | cons e rest =>
    rw [step_cons henv, step_cons (s := withStale s r) henv]
    have hrest : SameButStale { s with env := rest } { withStale s r with env := rest } :=
      ⟨rfl, h.capture, h.traces, h.widths, h.frame⟩
    cases e with
    | hostRead reg => exact .next ⟨rfl, h.capture, h.traces, h.widths, h.frame⟩
    | hostWrite reg data => exact hrest.hostWriteRegister (hs.outside rest s.rdata).sequencer reg data
    | reset => exact .next (.refl _)
    | pass => exact hrest.ctrlFetch (hs.outside rest s.rdata)

end Sys2Proof.Safety

namespace Sys2Proof.Machine

/-! ## What an operation leaves of TRIES, of STATUS and of the configuration -/

@[simp] theorem State.afterCommand_tries (s : State) : s.afterCommand.tries = s.tries := by
  rw [State.afterCommand_frame]

@[simp] theorem State.detectChange_tries (c : Level) (s : State) : (s.detectChange c).tries = s.tries := by
  rw [State.detectChange_frame]

@[simp] theorem State.detectChange_status (c : Level) (s : State) : (s.detectChange c).status = s.status := by
  rw [State.detectChange_frame]

@[simp] theorem acqPollAt_status (s : State) : (acqPollAt Config.traceDepth s).status = s.status := by
  rcases acqPollAt_outcomes s with ⟨-, -, h⟩ | ⟨-, -, h⟩ | ⟨-, h⟩ <;> simp [h]

@[simp] theorem State.judgeLength_status (s : State) : s.judgeLength.status = s.status := by
  rcases s.judgeLength_cases with ⟨-, h⟩ | ⟨-, h⟩ <;> simp [h]

@[simp] theorem State.beginRead_tries (s : State) : s.beginRead.tries = 0 := by
  rcases s.beginRead_cases with ⟨-, h⟩ | ⟨-, h⟩ <;> simp [h]

@[simp] theorem State.beginRead_status (s : State) : s.beginRead.status = .timeoutError := by
  rcases s.beginRead_cases with ⟨-, h⟩ | ⟨-, h⟩ <;> simp [h]

/-- The end of a command writes STATUS only at exhaustion (45_retry R173, R175). -/
theorem State.afterCommand_status (s : State) :
    s.afterCommand.status = s.status ∨ s.afterCommand.status = .timeoutError := by
  rcases s.afterCommand_outcomes with ⟨-, -, h⟩ | ⟨-, -, h⟩ | ⟨-, -, h⟩ | ⟨-, -, h⟩ | ⟨-, -, h⟩ <;> simp [h]

theorem State.judgeChecksum_status (s : State) : s.judgeChecksum.status = s.status ∨ s.judgeChecksum.status = .ok := by
  rcases s.judgeChecksum_cases with ⟨-, h⟩ | ⟨-, h⟩ <;> simp [h]

/-- An operation leaves STATUS, or writes Ok or TimeoutError (10_state R47). -/
theorem exec_status {i : Instr} {s t : State} (h : exec i s = .next t) :
    t.status = s.status ∨ t.status = .ok ∨ t.status = .timeoutError := by
  rcases exec_cases i s t h with
    ⟨-, -, rfl⟩ | ⟨w, -, -, rfl⟩ | ⟨p, -, -, rfl⟩ | ⟨p, -, -, -, rfl⟩ | ⟨-, rfl⟩ | ⟨-, rfl⟩ | ⟨-, ls, -, rfl⟩ | ⟨-, rfl⟩ |
    ⟨-, rfl⟩ | ⟨-, rfl⟩
  · simp
  · rcases (s.completePort w).afterCommand_status with h | h <;> simp [h]
  · rcases (s.completePort (pinReadWord p)).advanceLine.afterCommand_status with h | h <;> simp [h]
  · simp
  · simp
  · simp
  · simp
  · simp
  · rcases s.storeSum.judgeChecksum_status with h | h <;> simp [h]
  · simp

/-- The four configuration registers (10_state R42 to R45). -/
def State.config (s : State) : Pin × BitVec 8 × BitVec 32 × Bool := (s.pin, s.maxTries, s.minInterval, s.raise)

@[simp] theorem State.issue_config (w : PortWord) (s : State) : (s.issue w).config = s.config := rfl

@[simp] theorem State.completePort_config (w : PortWord) (s : State) : (s.completePort w).config = s.config := rfl

@[simp] theorem State.appendSample_config (c : Level) (s : State) : (s.appendSample c).config = s.config := rfl

@[simp] theorem State.storeScan_config (r : Scan) (s : State) : (s.storeScan r).config = s.config := rfl

@[simp] theorem State.storeDecoded_config (s : State) : s.storeDecoded.config = s.config := rfl

@[simp] theorem State.storeSum_config (s : State) : s.storeSum.config = s.config := rfl

@[simp] theorem State.advanceLine_config (s : State) : s.advanceLine.config = s.config := by
  rw [State.advanceLine_frame]; rfl

@[simp] theorem State.afterCommand_config (s : State) : s.afterCommand.config = s.config := by
  rw [State.afterCommand_frame]; rfl

@[simp] theorem State.detectChange_config (c : Level) (s : State) : (s.detectChange c).config = s.config := by
  rw [State.detectChange_frame]; rfl

@[simp] theorem State.beginRead_config (s : State) : s.beginRead.config = s.config := by
  rcases s.beginRead_cases with ⟨-, h⟩ | ⟨-, h⟩ <;> rw [h] <;> rfl

@[simp] theorem acqPollAt_config (s : State) : (acqPollAt Config.traceDepth s).config = s.config := by
  rcases acqPollAt_outcomes s with ⟨-, -, h⟩ | ⟨-, -, h⟩ | ⟨-, h⟩ <;> rw [h] <;> rfl

@[simp] theorem State.judgeLength_config (s : State) : s.judgeLength.config = s.config := by
  rcases s.judgeLength_cases with ⟨-, h⟩ | ⟨-, h⟩ <;> rw [h] <;> rfl

@[simp] theorem State.judgeChecksum_config (s : State) : s.judgeChecksum.config = s.config := by
  rcases s.judgeChecksum_cases with ⟨-, h⟩ | ⟨-, h⟩ <;> rw [h] <;> rfl

/-- No operation writes the configuration (10_state R51, 45_retry R178). -/
theorem exec_config {i : Instr} {s t : State} (h : exec i s = .next t) : t.config = s.config := by
  rcases exec_cases i s t h with
    ⟨-, -, rfl⟩ | ⟨w, -, -, rfl⟩ | ⟨p, -, -, rfl⟩ | ⟨p, -, -, -, rfl⟩ | ⟨-, rfl⟩ | ⟨-, rfl⟩ | ⟨-, ls, -, rfl⟩ | ⟨-, rfl⟩ |
    ⟨-, rfl⟩ | ⟨-, rfl⟩ <;> simp

/-! ## The STATE register as a number (10_state R46) -/

/-- Appending fields adds their numbers. -/
theorem toNat_append_eq_add {m n : Nat} (x : BitVec m) (y : BitVec n) : (x ++ y).toNat = x.toNat * 2 ^ n + y.toNat := by
  rw [BitVec.toNat_append, ← Nat.shiftLeft_add_eq_or_of_lt y.isLt, Nat.shiftLeft_eq]

theorem State.stateRegister_toNat (s : State) :
    s.stateRegister.toNat = 256 * s.tries.toNat + 32 * s.raised.toNat + 16 * s.valid.toNat + 8 * s.done.toNat +
      4 * s.busy.toNat + s.rstate.code.toNat := by
  simp only [State.stateRegister, toNat_append_eq_add, BitVec.toNat_ofBool, BitVec.ofNat_eq_ofNat, BitVec.toNat_ofNat]
  omega

/-- A bit of a word, by its number. -/
theorem getLsbD_eq_decide {n : Nat} (x : BitVec n) (i : Nat) : x.getLsbD i = decide (x.toNat / 2 ^ i % 2 = 1) := by
  rw [← BitVec.testBit_toNat, Nat.testBit_eq_decide_div_mod_eq]

/-! ## The flags (10_state R35) -/

theorem State.done_iff (s : State) : s.done = true ↔ s.rstate = .succeeded ∨ (s.rstate = .failed ∧ s.raise = false) := by
  simp [State.done]

theorem State.valid_iff (s : State) : s.valid = true ↔ s.done = true ∧ s.status = .ok := by simp [State.valid]

theorem State.raised_iff (s : State) : s.raised = true ↔ s.rstate = .failed ∧ s.raise = true := by simp [State.raised]

/-! ## Reading the host registers -/

/-- A reserved register reads 0 (10_state R50). -/
theorem State.hostReadValue_reserved (s : State) {reg : RegNum} (h : 9 ≤ reg.toNat) : s.hostReadValue reg = 0 := by
  unfold State.hostReadValue
  split
  case h_9 => rfl
  all_goals exact absurd h (by decide)

/-- A low byte held in a register reads back with the bits above 0 (10_state R42, R43). -/
theorem lowField_byte (data : HostWord) : lowField (data.extractLsb' 0 8) = data &&& 0xFF := by
  apply BitVec.eq_of_toNat_eq
  simp only [lowField, BitVec.toNat_setWidth, BitVec.extractLsb'_toNat, BitVec.toNat_and]
  rw [show (0xFF : HostWord).toNat = 2 ^ 8 - 1 from rfl, Nat.and_two_pow_sub_one_eq_mod]
  omega

/-- POLICY reads back its bit 0 (10_state R45). -/
theorem lowField_bit (data : HostWord) : lowField (BitVec.ofBool (data.getLsbD 0)) = data &&& 1 := by
  apply BitVec.eq_of_toNat_eq
  rw [getLsbD_eq_decide]
  simp only [lowField, BitVec.toNat_setWidth, BitVec.toNat_ofBool, BitVec.toNat_and]
  rw [show (1 : HostWord).toNat = 2 ^ 1 - 1 from rfl, Nat.and_two_pow_sub_one_eq_mod, pow_zero,
    Nat.div_one, pow_one]
  rcases Nat.mod_two_eq_zero_or_one data.toNat with hb | hb <;> simp [hb]

end Sys2Proof.Machine

namespace Sys2Proof.Safety

open Sys2Proof.Machine

/-! ## The obligations on the operations -/

/-- Settles O36: TRIES is cleared by READ, and counted where a test of ACQ_POLL, EXTRACT or VALIDATE fails the attempt. -/
theorem triesCountsFailedAttempts : Obligations.TriesCountsFailedAttempts := by
  intro i s t h
  rcases exec_cases i s t h with
    ⟨rfl, -, rfl⟩ | ⟨w, hw, -, rfl⟩ | ⟨p, rfl, -, rfl⟩ | ⟨p, rfl, -, -, rfl⟩ | ⟨rfl, rfl⟩ | ⟨rfl, rfl⟩ |
    ⟨rfl, ls, -, rfl⟩ | ⟨rfl, rfl⟩ | ⟨rfl, rfl⟩ | ⟨rfl, rfl⟩
  · exact .inl ⟨rfl, by simp⟩
  · exact .inr (.inr ⟨(by rintro rfl; cases hw), by simp⟩)
  · exact .inr (.inr ⟨nofun, by simp⟩)
  · exact .inr (.inr ⟨nofun, by simp⟩)
  · exact .inr (.inr ⟨nofun, by simp⟩)
  · rcases acqPollAt_outcomes s with ⟨-, -, hp⟩ | ⟨-, -, hp⟩ | ⟨-, hp⟩ <;> simp [hp]
  · rcases (s.storeScan (Scan.trace s.pw ls)).judgeLength_cases with ⟨-, hj⟩ | ⟨-, hj⟩ <;> simp [hj]
  · exact .inr (.inr ⟨nofun, by simp⟩)
  · rcases s.storeSum.judgeChecksum_cases with ⟨-, hj⟩ | ⟨-, hj⟩ <;> simp [hj]
  · exact .inr (.inr ⟨nofun, by simp⟩)

/-- Settles O37: every elementary update keeps the configuration (`exec_config`). -/
theorem operationsNeverWriteTheConfiguration : Obligations.OperationsNeverWriteTheConfiguration := by
  intro i s t h
  simpa [State.config] using exec_config h

/-- Settles O59: an operation writes Ok or TimeoutError if it writes STATUS, a reset writes TimeoutError, and no host access
writes it. -/
theorem checksumErrorNeverReported : Obligations.ChecksumErrorNeverReported := by
  intro s t hs h
  obtain ⟨u, hu, hstep⟩ := step_outcomes s t h
  have hus : u.status ≠ .checksumError := by rcases hu with rfl | ⟨rest, rfl⟩ <;> exact hs
  rcases hstep with ⟨i, hi⟩ | ⟨reg, rfl⟩ | ⟨d, rfl⟩ | ⟨d, rfl⟩ | ⟨d, rfl⟩ | ⟨d, rfl⟩ | rfl | rfl
  · rcases exec_status hi with hx | hx | hx <;> simp [hx, hus]
  · exact hus
  · exact hus
  · exact hus
  · exact hus
  · exact hus
  · exact nofun
  · exact hus

/-! ## The obligations on the registers and the flags -/

/-- Settles O44: each field is a slice of the STATE register's number (`State.stateRegister_toNat`). -/
theorem stateRegisterFields : Obligations.StateRegisterFields := by
  intro s
  have hn := s.stateRegister_toNat
  have hcode := s.rstate.code.isLt
  have htries := s.tries.isLt
  have hbusy := s.busy.toNat_le
  have hdone := s.done.toNat_le
  have hvalid := s.valid.toNat_le
  have hraised := s.raised.toNat_le
  have bit {b : Bool} {i : Nat} (h : s.stateRegister.toNat / 2 ^ i % 2 = b.toNat) : s.stateRegister.getLsbD i = b := by
    rw [getLsbD_eq_decide, h]
    cases b <;> rfl
  have field {k n : Nat} {v : BitVec n} (h : s.stateRegister.toNat / 2 ^ k % 2 ^ n = v.toNat) :
      s.stateRegister.extractLsb' k n = v :=
    BitVec.eq_of_toNat_eq (by rw [BitVec.extractLsb'_toNat, Nat.shiftRight_eq_div_pow, h])
  exact ⟨field (by omega), bit (by omega), bit (by omega), bit (by omega), bit (by omega), field (by simp; omega),
    field (by omega), field (by simp; omega), rfl⟩

/-- Settles O45: soundness fixes TRIES in Idle and STATUS in the other three, so that each RSTATE has one pattern of flags. -/
theorem stateRegisterTakesOnlyTheseValues : Obligations.StateRegisterTakesOnlyTheseValues := by
  intro s hs
  have hn := s.stateRegister_toNat
  have htries := s.tries.isLt
  have hok := hs.result.ok_iff
  apply BitVec.eq_of_toNat_eq
  rw [hn]
  cases hr : s.rstate with
  | idle => simp [State.busy, State.done, State.valid, State.raised, RState.code, beq_eq_decide, hr, hs.retry.tries_idle hr]
  | attempting =>
    simp [State.busy, State.done, State.valid, State.raised, RState.code, beq_eq_decide, hr]
    omega
  | succeeded =>
    simp [State.busy, State.done, State.valid, State.raised, RState.code, beq_eq_decide, hr, hok.2 hr]
    omega
  | failed =>
    have hst : s.status ≠ .ok := fun h => by simp [hok.1 h] at hr
    cases hra : s.raise <;>
      simp [State.busy, State.done, State.valid, State.raised, RState.code, beq_eq_decide, hr, hra, hst] <;> omega

/-- Settles O46: the flags are read off RSTATE and RAISE (`State.busy_iff`, `State.done_iff`, `State.raised_iff`). -/
theorem flagsFollowTheOutcome : Obligations.FlagsFollowTheOutcome := by
  refine ⟨fun s => ⟨s.busy_iff, s.done_iff, s.valid_iff, s.raised_iff, ?_, ?_, ?_, ?_, rfl⟩, rfl, rfl, rfl, rfl⟩
  · rw [s.busy_iff, s.done_iff]
    cases s.rstate <;> simp
  · rw [s.busy_iff, s.raised_iff]
    cases s.rstate <;> simp
  · rw [s.done_iff, s.raised_iff]
    cases s.rstate <;> simp
  · rw [← Bool.not_eq_true, ← Bool.not_eq_true, ← Bool.not_eq_true, s.busy_iff, s.done_iff, s.raised_iff]
    cases s.rstate <;> simp

/-- Settles O7: the values of `State.reset`. -/
theorem resetState : Obligations.ResetState := by
  refine ⟨rfl, rfl, rfl, rfl, rfl, rfl, rfl, rfl, rfl, by decide, by decide, rfl, rfl, rfl, rfl, rfl, by decide, by decide⟩

/-- Settles O8: registers 0 to 8 hold the values of `State.reset`, and the reserved registers read 0 in any state. -/
theorem resetRegistersRead : Obligations.ResetRegistersRead :=
  ⟨rfl, by decide, by decide, rfl, by decide, by decide, by decide, by decide, by decide,
    fun _ => State.reset.hostReadValue_reserved⟩

/-! ## The obligations on the host interface -/

/-- Settles O49: each of the four writes sets its register to the data's bits (`hostWriteRegister_configures`). -/
theorem configurationWriteReadsBack : Obligations.ConfigurationWriteReadsBack := by
  intro s data rest reg hr hreg henv
  have hreg : reg = 1 ∨ reg = 2 ∨ reg = 3 ∨ reg = 4 := by simpa using hreg
  refine ⟨State.configure { s with env := rest } reg data,
    (step_cons henv).trans (hostWriteRegister_configures data hr hreg), ?_⟩
  rcases hreg with rfl | rfl | rfl | rfl
  · exact ⟨lowField_byte data, rfl⟩
  · exact ⟨lowField_byte data, rfl⟩
  · exact ⟨rfl, rfl⟩
  · exact ⟨lowField_bit data, rfl⟩

/-- Settles O50: the guard of every such write looks at BUSY first (`hostWriteRegister_refused`). -/
theorem hostWriteWhileBusyRefused : Obligations.HostWriteWhileBusyRefused := fun _ _ data _ hr hreg henv =>
  (step_cons henv).trans (hostWriteRegister_refused data hr hreg)

/-- Settles O51: neither the write nor the read depends on the state (`hostWriteRegister_other`,
`State.hostReadValue_reserved`). -/
theorem reservedAndReadOnlyRegisters : Obligations.ReservedAndReadOnlyRegisters := by
  refine ⟨fun s reg data rest hreg henv => ?_, fun s reg rest hreg henv => ?_⟩
  · rw [step_cons henv]
    exact congrArg Fetched.perform (hostWriteRegister_other reg data _ hreg)
  · rw [step_cons henv]
    change Host.Outcome.next (State.hostRead reg _) = _
    rw [State.hostRead, State.hostReadValue_reserved _ hreg]

end Sys2Proof.Safety

/-! PROOF. The statements of 20_memory: what writes the trace buffer and in which form it stays (R60, R62), that no access to it
leaves the rules (R61, R62), and the host reads (R69). -/

namespace Sys2Proof.Machine

/-! ## What an operation and a step leave of the trace buffer -/

@[simp] theorem State.afterCommand_trace (s : State) : s.afterCommand.trace = s.trace := by
  rw [State.afterCommand_frame]

@[simp] theorem State.detectChange_trace (c : Level) (s : State) : (s.detectChange c).trace = s.trace := by
  rw [State.detectChange_frame]

@[simp] theorem acqPollAt_trace (s : State) : (acqPollAt Config.traceDepth s).trace = s.trace := by
  rcases acqPollAt_outcomes s with ⟨-, -, h⟩ | ⟨-, -, h⟩ | ⟨-, h⟩ <;> simp [h]

@[simp] theorem State.judgeLength_trace (s : State) : s.judgeLength.trace = s.trace := by
  rcases s.judgeLength_cases with ⟨-, h⟩ | ⟨-, h⟩ <;> simp [h]

@[simp] theorem State.judgeChecksum_trace (s : State) : s.judgeChecksum.trace = s.trace := by
  rcases s.judgeChecksum_cases with ⟨-, h⟩ | ⟨-, h⟩ <;> simp [h]

@[simp] theorem State.beginRead_trace (s : State) : s.beginRead.trace = s.trace := by
  rcases s.beginRead_cases with ⟨-, h⟩ | ⟨-, h⟩ <;> simp [h]

/-- The one store: a poll in ACQ_POLL writes the LINE's Level at TLEN, and every other operation leaves the trace buffer
(20_memory R60, R62). -/
theorem exec_trace {i : Instr} {s t : State} (h : exec i s = .next t) :
    ((∃ p, i = .pinRead p) ∧ s.phase = .acqPoll ∧ t.trace = s.trace.writeByte s.tlen (levelByte s.lineLevel)) ∨
    t.trace = s.trace := by
  rcases exec_cases i s t h with
    ⟨-, -, rfl⟩ | ⟨w, -, -, rfl⟩ | ⟨p, -, -, rfl⟩ | ⟨p, hi, hphase, -, rfl⟩ | ⟨-, rfl⟩ | ⟨-, rfl⟩ | ⟨-, ls, -, rfl⟩ |
    ⟨-, rfl⟩ | ⟨-, rfl⟩ | ⟨-, rfl⟩
  · simp
  · simp
  · simp
  · exact .inl ⟨⟨p, hi⟩, hphase, by simp⟩
  all_goals simp

/-- An operation keeps the canonical form of the trace buffer (log 9). -/
theorem exec_trace_wf {i : Instr} {s t : State} (h : exec i s = .next t) (hwf : s.trace.wf = true) :
    t.trace.wf = true := by
  rcases exec_trace h with ⟨-, -, ht⟩ | ht <;> rw [ht]
  · exact Memory.wf_writeByte _ _ _ (levelByte_lt_two _) hwf
  · exact hwf

/-! ## A host write makes no access to the trace buffer -/

theorem State.otherCommand_ne_fault (s : State) (code : BitVec 8) (f : Fault) : s.otherCommand code ≠ .fault f := by
  rcases s.otherCommand_cases code with ⟨-, h⟩ | ⟨-, h⟩ <;> rw [h] <;> nofun

/-- A host write is performed, ignored or refused, and never faults (10_state R41 to R51). -/
theorem hostWriteRegister_ne_fault (reg : RegNum) (data : HostWord) (s : State) (f : Fault) :
    (hostWriteRegister reg data s).perform ≠ .fault f := by
  by_cases hge : 5 ≤ reg.toNat
  · rw [hostWriteRegister_other _ _ _ hge]
    nofun
  by_cases hr : s.rstate = .attempting
  · rw [hostWriteRegister_refused data hr (by omega)]
    nofun
  by_cases h0 : reg = 0
  · rw [h0, hostWriteRegister_commands data hr]
    split
    · nofun
    · exact s.otherCommand_ne_fault _ f
  · rw [hostWriteRegister_configures data hr (regNum_configuration h0 hge)]
    nofun

/-! ## The fields of the host registers as numbers (10_state R40, R48, R49) -/

/-- A field of at most 32 bits, read in the low bits of a register, keeps its number. -/
theorem lowField_toNat {n : Nat} (v : BitVec n) (hn : n ≤ 32) : (lowField v).toNat = v.toNat :=
  BitVec.toNat_setWidth_of_le hn

/-- A value in tenths, read sign-extended, keeps its number. -/
theorem tenthsField_toInt (v : Tenths) : (tenthsField v).toInt = v.toInt :=
  BitVec.toInt_signExtend_of_le (by decide)

end Sys2Proof.Machine

namespace Sys2Proof.Safety

open Sys2Proof.Machine

/-- In a sound state CTRL and the PORT answer a next state (20_memory R61, R62, 45_retry R177). -/
theorem Sound.ctrlFetch_ne_fault {s : State} (hs : Sound s) (f : Fault) : (Machine.ctrlFetch s).perform ≠ .fault f := by
  obtain ⟨t, ht⟩ := hs.exists_ctrlStep
  rw [ht.perform]
  nofun

/-! ## The obligations on the trace buffer and the host reads -/

/-- Settles O39: the one store (`exec_trace`) leaves every address but TLEN. -/
theorem traceWrittenOnlyByAPoll : Obligations.TraceWrittenOnlyByAPoll := by
  intro i s t h a ha
  rcases exec_trace h with ⟨hi, hphase, ht⟩ | ht <;> rw [ht]
  exact Memory.readByte_writeByte_other _ _ fun hat => ha ⟨hi, hphase, hat⟩

/-- Settles O53: an operation keeps the form (`exec_trace_wf`), a reset leaves an empty buffer, and no other step writes it. -/
theorem stepKeepsTheTraceForm : Obligations.StepKeepsTheTraceForm := by
  intro s t hs h
  obtain ⟨u, hu, hstep⟩ := step_outcomes s t h
  have hwf : u.trace.wf = true := by rcases hu with rfl | ⟨rest, rfl⟩ <;> exact hs
  rcases hstep with ⟨i, hi⟩ | ⟨reg, rfl⟩ | ⟨d, rfl⟩ | ⟨d, rfl⟩ | ⟨d, rfl⟩ | ⟨d, rfl⟩ | rfl | rfl
  · exact exec_trace_wf hi hwf
  · exact hwf
  · exact hwf
  · exact hwf
  · exact hwf
  · exact hwf
  · exact State.reset_trace_wf
  · exact hwf

/-- Settles O56, by what takes the step: CTRL and the PORT, which have a next state from a sound one
(`Sound.exists_ctrlStep`), or an event of the outside, which does not access the trace buffer. -/
theorem soundStatesNeverFault : Obligations.SoundStatesNeverFault := by
  intro s f hs
  cases henv : s.env with
  | nil =>
    rw [step_nil henv]
    exact hs.ctrlFetch_ne_fault f
  | cons e rest =>
    rw [step_cons henv]
    cases e with
    | hostRead reg => nofun
    | hostWrite reg data => exact hostWriteRegister_ne_fault reg data _ f
    | reset => nofun
    | pass => exact (hs.outside rest s.rdata).ctrlFetch_ne_fault f

/-- Settles O48: a host read is a step of its own (`step_cons`), and each register delivers its field (`lowField_toNat`,
`tenthsField_toInt`). -/
theorem hostReadHasNoSideEffect : Obligations.HostReadHasNoSideEffect := by
  refine ⟨fun s reg rest henv => step_cons henv, fun s => ⟨rfl, lowField_toNat _ (by decide), lowField_toNat _ (by decide),
    rfl, ?policy, ?status, tenthsField_toInt _, tenthsField_toInt _⟩⟩
  case policy =>
    change lowField (BitVec.ofBool s.raise) = _
    cases s.raise <;> rfl
  case status =>
    change lowField s.status.code = _
    cases s.status <;> rfl

end Sys2Proof.Safety

/-! PROOF. The statements of 30_encoding: the decoder and the encoder are inverse to each other on the words of the formats (R88,
R90 to R93, R95 to R97), and what is refused of the HOST's writes (R96). One fact carries the first part: a code word decodes
to the operation it is the encoding of, and to no other (`decode_eq_ok_iff`). -/

namespace Sys2Proof

/-! ## The argument of a port command (30_encoding R91) -/

theorem levelOfArg_eq_some_iff {arg : BitVec 32} {l : Level} : levelOfArg arg = some l ↔ levelArg l = arg :=
  ⟨levelArg_of_levelOfArg, by rintro rfl; exact levelOfArg_levelArg l⟩

/-- An argument whose bits 31:1 are 0 is that of a Level. -/
theorem exists_levelArg_of_le_one {arg : BitVec 32} (h : arg.toNat ≤ 1) : ∃ l, levelArg l = arg := by
  rcases Nat.le_one_iff_eq_zero_or_eq_one.1 h with h0 | h1
  · exact ⟨.low, BitVec.eq_of_toNat_eq h0.symm⟩
  · exact ⟨.high, BitVec.eq_of_toNat_eq h1.symm⟩

theorem withLevelArg_eq_ok_iff {mk : Level → Instr} {arg : BitVec 32} {i : Instr} :
    withLevelArg mk arg = .ok i ↔ ∃ l, levelArg l = arg ∧ mk l = i := by
  simp only [← levelOfArg_eq_some_iff]
  unfold withLevelArg
  cases levelOfArg arg <;> simp

theorem withZeroArg_eq_ok_iff {i j : Instr} {arg : BitVec 32} : withZeroArg j arg = .ok i ↔ arg = 0 ∧ j = i := by
  unfold withZeroArg
  split
  case isTrue h => simp only [h, true_and, Except.ok.injEq]
  case isFalse h => simp only [h, false_and, reduceCtorEq]

/-! ## A word that decodes is the encoding of what it decodes to -/

/-- Format GCMD (30_encoding R91, R92): op names the command, and pin and arg hold all of its operands. -/
theorem encode_of_decodePortWord_fields {op : BitVec 8} {pin : Pin} {arg : BitVec 32} {i : Instr}
    (h : decodePortWord (portWord op pin arg) = .ok i) : encode i = .gcmd (portWord op pin arg) ∧ i.wf = true := by
  simp only [decodePortWord, opOfWord_portWord, pinOfWord_portWord, argOfWord_portWord] at h
  split at h
  case isTrue hop =>
    obtain ⟨l, rfl, rfl⟩ := withLevelArg_eq_ok_iff.1 h
    exact ⟨by rw [hop]; rfl, rfl⟩
  split at h
  case isTrue hop =>
    obtain ⟨rfl, rfl⟩ := withZeroArg_eq_ok_iff.1 h
    exact ⟨by rw [hop]; rfl, rfl⟩
  split at h
  case isTrue hop =>
    obtain ⟨l, rfl, rfl⟩ := withLevelArg_eq_ok_iff.1 h
    exact ⟨by rw [hop]; rfl, rfl⟩
  split at h
  case isTrue hop =>
    obtain ⟨rfl, rfl⟩ := withZeroArg_eq_ok_iff.1 h
    exact ⟨by rw [hop]; rfl, rfl⟩
  split at h
  case isTrue hop =>
    cases h
    exact ⟨by simp [encode, sleepWord, hop], decide_eq_true arg.isLt⟩
  case isFalse => cases h

/-- Format HCMD (30_encoding R90). -/
theorem encode_of_decodeHostCode {code : BitVec 8} {i : Instr} (h : decodeHostCode code = .ok i) :
    encode i = .hcmd code ∧ i.wf = true := by
  unfold decodeHostCode at h
  split at h
  case isTrue hc =>
    cases h
    exact ⟨by rw [hc]; rfl, rfl⟩
  split at h <;> cases h

/-- A PHASE code is that of a phase, or the unused 7 (30_encoding R88). -/
theorem phaseCode_cases (code : BitVec 3) : (∃ p : Machine.Phase, p.code = code) ∨ code = 7 := by
  have h : code = 0 ∨ code = 1 ∨ code = 2 ∨ code = 3 ∨ code = 4 ∨ code = 5 ∨ code = 6 ∨ code = 7 := by
    revert code
    decide
  rcases h with rfl | rfl | rfl | rfl | rfl | rfl | rfl | h
  · exact .inl ⟨.idle, rfl⟩
  · exact .inl ⟨.acqRequest, rfl⟩
  · exact .inl ⟨.acqPoll, rfl⟩
  · exact .inl ⟨.extract, rfl⟩
  · exact .inl ⟨.decode, rfl⟩
  · exact .inl ⟨.validate, rfl⟩
  · exact .inl ⟨.backoff, rfl⟩
  · exact .inr h

/-- Format PHASE (30_encoding R88). -/
theorem encode_of_decodePhaseCode {code : BitVec 3} {i : Instr} (h : decodePhaseCode code = .ok i) :
    encode i = .phase code ∧ i.wf = true := by
  rcases phaseCode_cases code with ⟨p, rfl⟩ | rfl
  · have hp := (Machine.decode_phase_code p).symm.trans h
    cases p <;> cases hp <;> exact ⟨rfl, rfl⟩
  · cases h

theorem encode_of_decode {c : CodeWord} {i : Instr} (h : decode c = .ok i) : encode i = c ∧ i.wf = true := by
  cases c with
  | hcmd code => exact encode_of_decodeHostCode h
  | gcmd w =>
    rw [← portWord_fields w] at h ⊢
    exact encode_of_decodePortWord_fields h
  | phase code => exact encode_of_decodePhaseCode h

/-! ## The encoding of an operation decodes to it -/

/-- By operation: the words of the port commands have been decoded before, and the codes of the others are constants. -/
theorem decode_encode {i : Instr} (hi : i.wf = true) : decode (encode i) = .ok i := by
  cases i with
  | cfgOut pin level => exact decodePortWord_cfgOutWord pin level
  | cfgIn pin => exact decodePortWord_cfgInWord pin
  | write pin level => exact decodePortWord_writeWord pin level
  | pinRead pin => exact decodePortWord_pinReadWord pin
  | sleep pin duration =>
    have hlt : duration < 2 ^ 32 := of_decide_eq_true hi
    exact (decodePortWord_sleepWord pin duration).trans (by rw [Nat.mod_eq_of_lt hlt])
  | read | acqRequest | acqPoll | extract | decode | validate | backoff => rfl

/-- The decoder and the encoder are inverse to each other (30_encoding R95, R97). -/
theorem decode_eq_ok_iff {c : CodeWord} {i : Instr} : decode c = .ok i ↔ encode i = c ∧ i.wf = true :=
  ⟨encode_of_decode, by rintro ⟨rfl, hi⟩; exact decode_encode hi⟩

/-! ## The words of the formats are the encodings of the well-formed operations -/

theorem encode_wf {i : Instr} (hi : i.wf = true) : (encode i).wf = true := by
  cases i with
  | cfgOut pin level => exact Laws.EncodesALegalWord.cfgOut pin level hi
  | cfgIn pin => exact Laws.EncodesALegalWord.cfgIn pin hi
  | write pin level => exact Laws.EncodesALegalWord.write pin level hi
  | pinRead pin => exact Laws.EncodesALegalWord.pinRead pin hi
  | sleep pin duration => exact Laws.EncodesALegalWord.sleep pin duration hi
  | read | acqRequest | acqPoll | extract | decode | validate | backoff => rfl

/-- A word of format GCMD whose reserved argument bits are 0 is the word of a port command (30_encoding R91, R92). -/
theorem exists_encode_of_portWordWf {op : BitVec 8} {pin : Pin} {arg : BitVec 32}
    (h : portWordWf (portWord op pin arg) = true) : ∃ i, encode i = .gcmd (portWord op pin arg) ∧ i.wf = true := by
  simp only [Laws.EncodesALegalWord.portWordWf_portWord, Bool.or_eq_true, Bool.and_eq_true, beq_iff_eq,
    decide_eq_true_eq] at h
  rcases h with (((⟨rfl, harg⟩ | ⟨rfl, rfl⟩) | ⟨rfl, harg⟩) | ⟨rfl, rfl⟩) | rfl
  · obtain ⟨l, rfl⟩ := exists_levelArg_of_le_one harg
    exact ⟨.cfgOut pin l, rfl, rfl⟩
  · exact ⟨.cfgIn pin, rfl, rfl⟩
  · obtain ⟨l, rfl⟩ := exists_levelArg_of_le_one harg
    exact ⟨.write pin l, rfl, rfl⟩
  · exact ⟨.pinRead pin, rfl, rfl⟩
  · exact ⟨.sleep pin arg.toNat, by simp [encode, sleepWord], decide_eq_true arg.isLt⟩

/-- A PHASE code other than IDLE's and the unused one is the code of an operation (30_encoding R88). -/
theorem exists_encode_of_phaseWf {code : BitVec 3} (h : (CodeWord.phase code).wf = true) :
    ∃ i, encode i = .phase code ∧ i.wf = true := by
  rcases phaseCode_cases code with ⟨p, rfl⟩ | rfl
  · cases p with
    | idle => exact absurd h (by decide)
    | acqRequest => exact ⟨.acqRequest, rfl, rfl⟩
    | acqPoll => exact ⟨.acqPoll, rfl, rfl⟩
    | extract => exact ⟨.extract, rfl, rfl⟩
    | decode => exact ⟨.decode, rfl, rfl⟩
    | validate => exact ⟨.validate, rfl, rfl⟩
    | backoff => exact ⟨.backoff, rfl, rfl⟩
  · exact absurd h (by decide)

theorem CodeWord.wf_iff_exists_encode (c : CodeWord) : c.wf = true ↔ ∃ i, encode i = c ∧ i.wf = true := by
  constructor
  · intro h
    cases c with
    | hcmd code =>
      obtain rfl : code = 0x01 := eq_of_beq h
      exact ⟨.read, rfl, rfl⟩
    | gcmd w =>
      rw [← portWord_fields w] at h ⊢
      exact exists_encode_of_portWordWf h
    | phase code => exact exists_encode_of_phaseWf h
  · rintro ⟨i, rfl, hi⟩
    exact encode_wf hi

theorem decode?_isSome_iff (c : CodeWord) : (decode? c).isSome = true ↔ ∃ i, decode c = .ok i := by
  unfold decode?
  cases decode c <;> simp

namespace Machine

/-! ## Refused host writes (30_encoding R96, 10_state R51) -/

/-- A code that names no operation is refused only if it is reserved (30_encoding R96, U3). -/
theorem State.otherCommand_eq_refused {s : State} {code : BitVec 8} {r : Refusal}
    (h : s.otherCommand code = .refused r) : code ≠ 0x00 ∧ r = .hostCommandReserved code := by
  rcases s.otherCommand_cases code with ⟨-, hc⟩ | ⟨hne, hc⟩ <;> rw [hc] at h <;> cases h
  exact ⟨hne, rfl⟩

/-- The codes of CMD that name neither READ nor "no operation" are 0x02 to 0xFF (30_encoding R90, R96). -/
theorem reservedCode_iff {code : BitVec 8} : 2 ≤ code.toNat ↔ code ≠ 0x00 ∧ code ≠ 0x01 := by
  simp only [ne_eq, ← BitVec.toNat_inj, BitVec.ofNat_eq_ofNat, BitVec.toNat_ofNat]
  omega

/-- A host write is refused for one of two reasons: the block is busy and the register may not be written then, or it is not
and the command is reserved (10_state R51, 30_encoding R96). -/
theorem hostWriteRegister_eq_refused {reg : RegNum} {data : HostWord} {s : State} {r : Refusal}
    (h : (hostWriteRegister reg data s).perform = .refused r) :
    (s.rstate = .attempting ∧ reg.toNat ≤ 4 ∧ r = .hostWriteWhileBusy reg) ∨
    (s.rstate ≠ .attempting ∧ reg = 0 ∧ 2 ≤ (commandCode data).toNat ∧ r = .hostCommandReserved (commandCode data)) := by
  by_cases hge : 5 ≤ reg.toNat
  · rw [hostWriteRegister_other _ _ _ hge] at h
    cases h
  by_cases hr : s.rstate = .attempting
  · have hreg : reg.toNat ≤ 4 := by omega
    rw [hostWriteRegister_refused data hr hreg] at h
    cases h
    exact .inl ⟨hr, hreg, rfl⟩
  by_cases h0 : reg = 0
  · rw [h0, hostWriteRegister_commands data hr] at h
    split at h
    · cases h
    · next hread =>
      obtain ⟨hnop, hrefused⟩ := State.otherCommand_eq_refused h
      exact .inr ⟨hr, h0, reservedCode_iff.2 ⟨hnop, hread⟩, hrefused⟩
  · rw [hostWriteRegister_configures data hr (regNum_configuration h0 hge)] at h
    cases h

/-- While BUSY = 0 a write to CMD of a code other than READ's answers as that code does. -/
theorem step_otherCommand {s : State} {data : HostWord} {rest : List EnvEvent} (hr : s.rstate ≠ .attempting)
    (henv : s.env = .hostWrite 0 data :: rest) (hread : commandCode data ≠ 0x01) :
    step s = State.otherCommand { s with env := rest } (commandCode data) := by
  rw [step_cons henv]
  exact (hostWriteRegister_commands (s := { s with env := rest }) data hr).trans (if_neg hread)

end Machine

end Sys2Proof

namespace Sys2Proof.Safety

open Sys2Proof.Machine

/-- In a sound state CTRL and the PORT refuse nothing: an outstanding word is a command that CTRL has issued, and READ is no
operation of a phase (30_encoding R96, 45_retry R177). -/
theorem Sound.ctrlFetch_ne_refused {s : State} (hs : Sound s) (r : Refusal) :
    (Machine.ctrlFetch s).perform ≠ .refused r := by
  obtain ⟨t, ht⟩ := hs.exists_ctrlStep
  rw [ht.perform]
  nofun

/-! ## The obligations on the encoding -/

/-- Settles O2: the inverse law, read from the operation (`decode_encode`). -/
theorem decodeOfEncode : Obligations.DecodeOfEncode := fun _ => decode_encode

/-- Settles O3: the inverse law, read from the word, format by format (`encode_of_decode`). -/
theorem encodeOfDecode : Obligations.EncodeOfDecode := fun _ _ => encode_of_decode

/-- Settles O4: both sides say that the word is the encoding of a well-formed operation (`decode_eq_ok_iff`,
`CodeWord.wf_iff_exists_encode`). -/
theorem decodeAcceptsExactlyTheFormats : Obligations.DecodeAcceptsExactlyTheFormats := fun c =>
  Bool.eq_iff_iff.2 <| calc
    (decode? c).isSome = true ↔ ∃ i, decode c = .ok i := decode?_isSome_iff c
    _ ↔ ∃ i, encode i = c ∧ i.wf = true := exists_congr fun _ => decode_eq_ok_iff
    _ ↔ c.wf = true := c.wf_iff_exists_encode.symm

/-- Settles O1: each word is the encoding of its operation (`decode_eq_ok_iff`). -/
theorem sampleWordsNameTheirOperations : Obligations.SampleWordsNameTheirOperations := by
  refine ⟨?_, ?_, ?_, ?_, ?_, ?_, ?_, ?_⟩ <;> exact decode_eq_ok_iff.2 ⟨by decide, by decide⟩

/-! ## The obligations on refused host writes -/

/-- Settles O52: code 0x00 leaves the state and a reserved code is refused, as `State.otherCommand_cases` says. -/
theorem otherCommandCodes : Obligations.OtherCommandCodes := by
  intro s data rest hr henv
  refine ⟨fun (hnop : commandCode data = 0x00) => ?_, fun (hreserved : 2 ≤ (commandCode data).toNat) => ?_⟩
  · rw [step_otherCommand hr henv (by simp [hnop])]
    exact if_pos hnop
  · obtain ⟨hnop, hread⟩ := reservedCode_iff.1 hreserved
    rw [step_otherCommand hr henv hread]
    exact if_neg hnop

/-- Settles O57, by what takes the step: of the outside only a host write is ever refused (`hostWriteRegister_eq_refused`),
and CTRL and the PORT refuse nothing in a sound state (`Sound.ctrlFetch_ne_refused`). -/
theorem onlyForbiddenHostWritesAreRefused : Obligations.OnlyForbiddenHostWritesAreRefused := by
  intro s r hs h
  cases henv : s.env with
  | nil =>
    rw [step_nil henv] at h
    exact absurd h (hs.ctrlFetch_ne_refused r)
  | cons e rest =>
    rw [step_cons henv] at h
    cases e with
    | hostRead reg => cases h
    | hostWrite reg data => exact ⟨reg, data, rest, rfl, hostWriteRegister_eq_refused (s := { s with env := rest }) h⟩
    | reset => cases h
    | pass => exact absurd h ((hs.outside rest s.rdata).ctrlFetch_ne_refused r)

end Sys2Proof.Safety

/-! PROOF. The statements of 40_gpio: a port command that completes in a phase that issues none (R110, R114; the model's choice
of log 18). -/

namespace Sys2Proof.Machine

/-! ## What CTRL does when a command completes, by phase -/

/-- Outside ACQ_REQUEST and BACKOFF nothing follows a completed command (log 18). -/
theorem State.afterCommand_elsewhere {s : State} (hrequest : s.phase ≠ .acqRequest) (hbackoff : s.phase ≠ .backoff) :
    s.afterCommand = s := by
  rcases s.afterCommand_cases with ⟨h, -⟩ | ⟨h, -⟩ | ⟨-, -, h⟩
  · exact absurd h hrequest
  · exact absurd h hbackoff
  · exact h

/-- The four registers that CTRL's bookkeeping writes, by phase: STEP advances in ACQ_REQUEST (41_sampler R121), and BACKOFF
makes the exhaustion test (45_retry R173, R175). -/
theorem State.afterCommand_eq (s : State) :
    s.afterCommand = { s with
      stepNo := (match s.phase with
        | .acqRequest => if s.stepNo = 6 then 0 else s.stepNo + 1
        | .backoff => if s.tries = s.maxTries then s.stepNo else 0
        | _ => s.stepNo),
      phase := (match s.phase with
        | .acqRequest => if s.stepNo = 6 then .acqPoll else .acqRequest
        | .backoff => if s.tries = s.maxTries then .idle else .acqRequest
        | p => p),
      rstate := if s.phase = .backoff ∧ s.tries = s.maxTries then .failed else s.rstate,
      status := if s.phase = .backoff ∧ s.tries = s.maxTries then .timeoutError else s.status } := by
  rcases s.afterCommand_outcomes with
    ⟨hphase, hstep, h⟩ | ⟨hphase, hstep, h⟩ | ⟨hphase, htries, h⟩ | ⟨hphase, htries, h⟩ | ⟨hrequest, hbackoff, h⟩
  · simp [h, hphase, hstep, State.enterPoll]
  · simp [h, hphase, hstep, State.nextStep]
  · simp [h, hphase, htries, State.exhaust]
  · simp [h, hphase, htries, State.retry]
  · rw [h]
    obtain ⟨phase⟩ := s
    cases phase with
    | acqRequest => exact absurd rfl hrequest
    | backoff => exact absurd rfl hbackoff
    | _ => rfl

/-! ## The LINE (00_scope R13) -/

theorem State.advanceLine_nil {s : State} (h : s.line = []) : s.advanceLine = { s with lineIdx := s.lineIdx + 1 } := by
  unfold State.advanceLine
  rw [h]

/-- The LINE's move takes the listed Level away, or counts one more free Level, and nothing else changes (log 3). -/
theorem State.advanceLine_moves (s : State) : ∃ line idx, s.advanceLine = { s with line := line, lineIdx := idx } ∧
    (∀ l rest, s.line = l :: rest → line = rest ∧ idx = s.lineIdx) ∧
    (s.line = [] → line = [] ∧ idx = s.lineIdx + 1) := by
  cases hline : s.line with
  | nil => exact ⟨s.line, s.lineIdx + 1, State.advanceLine_nil hline, nofun, fun _ => ⟨hline, rfl⟩⟩
  | cons l rest =>
    refine ⟨rest, s.lineIdx, State.advanceLine_cons hline, ?_, nofun⟩
    rintro _ _ ⟨⟩
    exact ⟨rfl, rfl⟩

/-- A PIN_READ outside ACQ_POLL is the port's completion, the LINE's move and CTRL's bookkeeping (log 18). -/
theorem exec_pinRead_elsewhere (pin : Pin) {s : State} (hphase : s.phase ≠ .acqPoll) :
    exec (.pinRead pin) s = .next (s.completePort (pinReadWord pin)).advanceLine.afterCommand :=
  pinReadAt_elsewhere Config.traceDepth pin s hphase

end Sys2Proof.Machine

namespace Sys2Proof.Safety

open Sys2Proof.Machine

/-! ## The obligations on the port commands -/

/-- Settles O16: the command completes (`exec_portCommand`), and nothing follows (`State.afterCommand_elsewhere`). -/
theorem portCommandElsewhereOnlyCompletes : Obligations.PortCommandElsewhereOnlyCompletes := by
  intro i w s hw hread hrequest hbackoff
  have hafter : (s.completePort w).afterCommand = s.completePort w := State.afterCommand_elsewhere hrequest hbackoff
  rw [exec_portCommand i w s hw hread, hafter]
  rfl

/-- Settles O19: the LINE moves as `State.advanceLine_moves` says, and CTRL goes on by its phase (`State.afterCommand_eq`). -/
theorem pinReadElsewhereStoresNothing : Obligations.PinReadElsewhereStoresNothing := by
  intro pin s hphase
  obtain ⟨line, idx, hmove, hlisted, hfree⟩ := (s.completePort (pinReadWord pin)).advanceLine_moves
  have hexec := exec_pinRead_elsewhere pin hphase
  rw [hmove, State.afterCommand_eq] at hexec
  exact ⟨_, hexec, rfl, rfl, hlisted, hfree, rfl, fun _ => rfl, rfl, rfl, rfl, rfl⟩

end Sys2Proof.Safety

/-! PROOF. The statements of 41_waveform_sampler: the handshake (R121), one poll and the change detector (R122 to R126), and
the runs of a whole handshake and a whole capture (R127, R128). -/

namespace Sys2Proof.Machine

/-! ## The handshake's words (41_sampler R121, 30_encoding R91) -/

/-- The command of each STEP, by its three fields. -/
theorem handshakeWord_fields (pin : Pin) (n : Fin 7) :
    handshakeWord pin n = (match n with
      | 0 => 0x01#8 ++ pin ++ 1#32
      | 1 => 0x05#8 ++ pin ++ 500000#32
      | 2 => 0x03#8 ++ pin ++ 1#32
      | 3 => 0x05#8 ++ pin ++ 50000#32
      | 4 => 0x03#8 ++ pin ++ 0#32
      | 5 => 0x05#8 ++ pin ++ 20000#32
      | 6 => 0x02#8 ++ pin ++ 0#32) := by
  match n with
  | 0 | 1 | 2 | 3 | 4 | 5 | 6 => rfl

/-! ## One poll (41_sampler R124) -/

theorem State.lineLevel_nil {s : State} (h : s.line = []) : s.lineLevel = Config.lineLevel s.lineIdx := by
  unfold State.lineLevel
  rw [h]

/-- A PIN_READ in ACQ_POLL with room in the trace: the port's completion, the LINE's move, the store and the change
detector. -/
theorem exec_pinRead_polling (pin : Pin) {s : State} (hphase : s.phase = .acqPoll) (hroom : s.tlen < Config.traceDepth) :
    exec (.pinRead pin) s = .next
      (((s.completePort (pinReadWord pin)).advanceLine.appendSample s.lineLevel).detectChange s.lineLevel) :=
  (pinReadAt_polling _ pin s hphase).trans
    ((State.takeSample_eq_next_iff _ _ _ _).2 ⟨by simpa using hroom, rfl⟩)

@[simp] theorem State.detectChange_tlen (c : Level) (s : State) : (s.detectChange c).tlen = s.tlen := by
  rw [State.detectChange_frame]

@[simp] theorem State.detectChange_line (c : Level) (s : State) : (s.detectChange c).line = s.line := by
  rw [State.detectChange_frame]

@[simp] theorem State.detectChange_lineIdx (c : Level) (s : State) : (s.detectChange c).lineIdx = s.lineIdx := by
  rw [State.detectChange_frame]

/-- What the change detector writes, in the tests of R124 and R125. -/
theorem State.detectChange_registers (c : Level) (s : State) :
    if s.lastv = false ∨ s.last ≠ c then
      (s.detectChange c).unchanged = 0 ∧ (s.detectChange c).last = c ∧ (s.detectChange c).lastv = true ∧
        (s.detectChange c).phase = s.phase ∧ (s.detectChange c).polling = s.polling
    else
      (s.detectChange c).unchanged = s.unchanged + 1 ∧ (s.detectChange c).last = s.last ∧
        (s.detectChange c).lastv = s.lastv ∧
        (if (s.unchanged + 1).toNat = 200 then
          (s.detectChange c).phase = .extract ∧ (s.detectChange c).polling = false
        else (s.detectChange c).phase = s.phase ∧ (s.detectChange c).polling = s.polling) := by
  rcases s.detectChange_outcomes c with ⟨hchange, h⟩ | ⟨hlastv, hlast, hstop, h⟩ | ⟨hlastv, hlast, hgo, h⟩
  · rw [if_pos hchange, h]
    simp
  · rw [if_neg (by simp [hlastv, hlast]), if_pos hstop, h]
    simp
  · rw [if_neg (by simp [hlastv, hlast]), if_neg hgo, h]
    simp

/-- Appending a sample to the trace appends it to the list that the trace reads as (20_memory R62, R71). -/
theorem State.readTrace_append {s t : State} {ls : List Level} {c : Level} (h : s.readTrace = .ok ls)
    (htrace : t.trace = s.trace.writeByte s.tlen (levelByte c)) (htlen : t.tlen = s.tlen + 1) :
    t.readTrace = .ok (ls ++ [c]) := by
  obtain ⟨hlen, hread⟩ := (s.readTrace_eq_ok_iff ls).1 h
  refine (t.readTrace_eq_ok_iff _).2 ⟨by simp [hlen, htlen], fun i hi => ?_⟩
  rw [htrace]
  by_cases hat : i = s.tlen
  · simp [hat, ← hlen]
  · have hold : i < s.tlen := by omega
    rw [Memory.readLevel_writeByte_other _ _ hat, hread i hold, List.getD_append _ _ _ _ (hlen ▸ hold)]

/-- With no event of the outside waiting, the step is CTRL's and the PORT's. -/
theorem CtrlStep.step_eq {s t : State} (he : s.env = []) (h : CtrlStep s t) : step s = .next t :=
  (step_nil he).trans h.perform

end Sys2Proof.Machine

namespace Sys2Proof.Safety

open Sys2Proof.Machine

/-! ## Runs of one and of two steps -/

theorem runFor_one {s t : State} (h : step s = .next t) : runFor 1 s = .next t := runFor_succ h

theorem runFor_two {s t u : State} (h : step s = .next t) (h' : step t = .next u) : runFor 2 s = .next u :=
  (runFor_succ h).trans (runFor_one h')

/-! ## The run of the handshake (41_sampler R121) -/

/-- The first n handshake commands completed, newest first. -/
def handshakeSent (pin : Pin) : Nat → List PortEvent
  | 0 => []
  | n + 1 => .completed (handshakeWord pin (Fin.ofNat 7 n)) :: handshakeSent pin n

theorem handshakeSent_seven (pin : Pin) : handshakeSent pin 7 = handshake pin := rfl

/-- One handshake command, from its issue to the advance of STEP. -/
theorem runFor_handshakeCommand {s : State} (he : s.env = []) (ho : s.outstanding = none) (hr : s.rstate = .attempting)
    (hp : s.phase = .acqRequest) :
    runFor 2 s = .next (s.completePort (handshakeWord s.pin s.stepNo)).advanceHandshake :=
  runFor_two (CtrlStep.step_eq he (.handshakeIssued ho hr hp))
    ((step_nil (s := s.issue (handshakeWord s.pin s.stepNo)) he).trans (ctrlFetch_handshake rfl hp))

/-- s with the first n handshake commands completed, STEP at the next one. -/
def handshakeAt (s : State) (n : Nat) : State :=
  { s with stepNo := Fin.ofNat 7 n, portLog := handshakeSent s.pin n ++ s.portLog }

theorem handshakeAt_zero {s : State} (hn : s.stepNo = 0) : handshakeAt s 0 = s := by
  simp [handshakeAt, handshakeSent, ← hn]

/-- Before STEP 6 a completed command leads to the next STEP. -/
theorem handshakeAt_succ {s : State} {n : Nat} (ho : s.outstanding = none) (hlt : n < 6) :
    ((handshakeAt s n).completePort (handshakeWord s.pin (Fin.ofNat 7 n))).advanceHandshake = handshakeAt s (n + 1) := by
  have hlast : Fin.ofNat 7 n ≠ 6 := by
    rw [Ne, Fin.ext_iff]
    simp
    omega
  have hnext : Fin.ofNat 7 n + 1 = Fin.ofNat 7 (n + 1) := by simp [Fin.ext_iff, Fin.val_add]
  calc
    _ = ((handshakeAt s n).completePort (handshakeWord s.pin (Fin.ofNat 7 n))).nextStep := if_neg hlast
    _ = handshakeAt s (n + 1) := by
      simp only [handshakeAt, State.completePort, State.nextStep, handshakeSent, hnext, ho, List.cons_append]

/-- The first n handshake commands, for every n up to STEP 6. -/
theorem runFor_firstCommands {s : State} (he : s.env = []) (ho : s.outstanding = none) (hr : s.rstate = .attempting)
    (hp : s.phase = .acqRequest) (hn : s.stepNo = 0) (n : Nat) (hle : n ≤ 6) :
    runFor (2 * n) s = .next (handshakeAt s n) := by
  induction n with
  | zero => rw [handshakeAt_zero hn, Nat.mul_zero, runFor_zero]
  | succ n ih =>
    rw [Nat.mul_succ, runFor_add (ih (by omega)), runFor_handshakeCommand (s := handshakeAt s n) he ho hr hp]
    exact congrArg _ (handshakeAt_succ ho (by omega))

/-! ## How Levels end, and the change detector's count of it (41_sampler R124, R125) -/

/-- The Levels end in exactly n + 1 samples at c. -/
def EndsInRun (ls : List Level) (n : Nat) (c : Level) : Prop :=
  ∃ before, ls.reverse = List.replicate (n + 1) c ++ before ∧ before.head? ≠ some c

theorem EndsInRun.settled_iff {ls : List Level} {n : Nat} {c : Level} (h : EndsInRun ls n c) :
    Settled ls ↔ 200 ≤ n := by
  obtain ⟨before, hrun, hbefore⟩ := h
  exact settled_iff_of_run hrun hbefore

theorem EndsInRun.getLast? {ls : List Level} {n : Nat} {c : Level} (h : EndsInRun ls n c) : ls.getLast? = some c := by
  obtain ⟨before, hrun, -⟩ := h
  rw [← List.head?_reverse, hrun]
  rfl

theorem EndsInRun.append_same {ls : List Level} {n : Nat} {c : Level} (h : EndsInRun ls n c) :
    EndsInRun (ls ++ [c]) (n + 1) c := by
  obtain ⟨before, hrun, hbefore⟩ := h
  exact ⟨before, by rw [List.reverse_append, hrun]; rfl, hbefore⟩

theorem endsInRun_append_change {ls : List Level} {c : Level} (h : ls.getLast? ≠ some c) : EndsInRun (ls ++ [c]) 0 c :=
  ⟨ls.reverse, by simp, by simpa using h⟩

/-- LASTV, LAST and UNCHANGED tell how the Levels polled so far end, and the capture goes on. -/
structure Detecting (ls : List Level) (t : State) : Prop where
  first : t.lastv = false → ls = []
  later : t.lastv = true → EndsInRun ls t.unchanged.toNat t.last
  unchanged_lt : t.unchanged.toNat < 200

/-- The detector takes a sample for a change exactly when the Levels do not end in it. -/
theorem Detecting.getLast?_ne {ls : List Level} {t : State} {c : Level} (h : Detecting ls t)
    (hc : t.lastv = false ∨ t.last ≠ c) : ls.getLast? ≠ some c := by
  cases hv : t.lastv with
  | false => simp [h.first hv]
  | true =>
    have hl : t.last ≠ c := by simpa [hv] using hc
    simpa [(h.later hv).getLast?] using hl

theorem Detecting.unchanged_succ {ls : List Level} {t : State} (h : Detecting ls t) :
    (t.unchanged + 1).toNat = t.unchanged.toNat + 1 := by
  have := h.unchanged_lt
  rw [BitVec.toNat_add]
  exact Nat.mod_eq_of_lt (by simp; omega)

/-- The port's completion and the store of a sample leave the detector's registers alone. -/
theorem Detecting.sampled {ls : List Level} {t : State} (h : Detecting ls t) : Detecting ls t.sampled :=
  ⟨by simpa using h.first, by simpa using h.later, by simpa using h.unchanged_lt⟩

/-- A sample that settles the Levels ends the capture, and no other does (41_sampler R125). -/
theorem Detecting.detect {ls : List Level} {t : State} (h : Detecting ls t) (c : Level) :
    (¬ Settled (ls ++ [c]) ∧ Detecting (ls ++ [c]) (t.detectChange c) ∧ (t.detectChange c).phase = t.phase ∧
      (t.detectChange c).polling = t.polling) ∨
    (Settled (ls ++ [c]) ∧ (t.detectChange c).phase = .extract ∧ (t.detectChange c).polling = false ∧
      (t.detectChange c).unchanged = 200) := by
  rcases t.detectChange_outcomes c with ⟨hchange, hd⟩ | ⟨hv, rfl, hstop, hd⟩ | ⟨hv, rfl, hgo, hd⟩
  · have hends := endsInRun_append_change (h.getLast?_ne hchange)
    rw [hd]
    exact .inl ⟨by simp [hends.settled_iff], ⟨by simp, fun _ => by simpa using hends, by simp⟩, rfl, rfl⟩
  · have hends := (h.later hv).append_same
    rw [← h.unchanged_succ, hstop] at hends
    rw [hd]
    exact .inr ⟨hends.settled_iff.2 le_rfl, rfl, rfl, BitVec.eq_of_toNat_eq hstop⟩
  · have hends := (h.later hv).append_same
    rw [← h.unchanged_succ] at hends
    have hlt : (t.unchanged + 1).toNat < 200 := by
      have := h.unchanged_lt
      have := h.unchanged_succ
      omega
    rw [hd]
    exact .inl ⟨by rw [hends.settled_iff]; omega, ⟨by simp [hv], fun _ => hends, hlt⟩, rfl, rfl⟩

/-! ## What a capture has recorded (41_sampler R124, R127) -/

/-- s with the registers of r that a capture moves. -/
def withCapture (s r : State) : State :=
  { s with
    phase := r.phase, polling := r.polling, outstanding := r.outstanding, lastv := r.lastv, last := r.last,
    unchanged := r.unchanged, tlen := r.tlen, trace := r.trace, line := r.line, portLog := r.portLog }

/-- From s on the Levels ls have been polled, each by one PIN_READ, and the LINE has `rest` to come. -/
structure Recorded (s : State) (ls rest : List Level) (t : State) : Prop where
  same : t = withCapture s t
  outstanding : t.outstanding = none
  line : t.line = rest
  portLog : t.portLog = polls ls.length s.pin ++ s.portLog
  readTrace : t.readTrace = .ok ls

section

variable {s t : State} {ls rest : List Level} {c : Level}

theorem Recorded.env (h : Recorded s ls rest t) : t.env = s.env := by rw [h.same]; rfl

theorem Recorded.rstate (h : Recorded s ls rest t) : t.rstate = s.rstate := by rw [h.same]; rfl

theorem Recorded.pin (h : Recorded s ls rest t) : t.pin = s.pin := by rw [h.same]; rfl

theorem Recorded.tlen (h : Recorded s ls rest t) : t.tlen = ls.length :=
  ((t.readTrace_eq_ok_iff ls).1 h.readTrace).1.symm

/-- A poll moves only what a capture moves. -/
theorem detectChange_sampled_withCapture (hline : t.line = c :: rest) :
    t.sampled.detectChange c = withCapture t (t.sampled.detectChange c) := by
  rw [State.detectChange_frame, State.sampled, State.advanceLine_cons (s := t.completePort _) hline]
  rfl

theorem withCapture_trans {u : State} (h : t = withCapture s t) (h' : u = withCapture t u) : u = withCapture s u := by
  rw [h', h]
  rfl

/-- One poll records one Level (41_sampler R124). -/
theorem Recorded.poll (h : Recorded s ls (c :: rest) t) :
    Recorded s (ls ++ [c]) rest (t.sampled.detectChange c) where
  same := withCapture_trans h.same (detectChange_sampled_withCapture h.line)
  outstanding := by simp
  line := by simp [State.advanceLine_cons (s := t.completePort _) h.line]
  portLog := by simp [h.portLog, h.pin, polls, List.replicate_succ]
  readTrace := State.readTrace_append h.readTrace (by simp [State.lineLevel_cons h.line]) (by simp)

/-! ## The loop of ACQ_POLL (41_sampler R122) -/

/-- t stands at the head of the loop of ACQ_POLL, the Levels ls polled and the capture not ended. -/
structure AtLoopHead (s : State) (ls rest : List Level) (t : State) : Prop where
  recorded : Recorded s ls rest t
  detecting : Detecting ls t
  phase : t.phase = .acqPoll
  polling : t.polling = true

/-- The initialisation of a capture leaves the block at the head of the loop, nothing polled (41_sampler R123). -/
theorem atLoopHead_startCapture (ho : s.outstanding = none) (hp : s.phase = .acqPoll) :
    AtLoopHead s [] s.line s.startCapture :=
  ⟨⟨rfl, ho, rfl, rfl, rfl⟩, ⟨fun _ => rfl, nofun, by simp⟩, hp, rfl⟩

/-- A run from the entry of ACQ_POLL is a run from the head of the loop: the initialisation takes no step of its own. -/
theorem runFor_startCapture (he : s.env = []) (ho : s.outstanding = none) (hr : s.rstate = .attempting)
    (hp : s.phase = .acqPoll) (hc : s.polling = false) (n : Nat) :
    runFor (n + 1) s = runFor (n + 1) s.startCapture := by
  have hentry : step s = .next (s.startCapture.issue (pinReadWord s.pin)) :=
    CtrlStep.step_eq he (.captureStarted ho hr hp hc)
  have hhead : step s.startCapture = .next (s.startCapture.issue (pinReadWord s.pin)) :=
    CtrlStep.step_eq he (.pollIssued ho hr hp rfl (by simp [Config.traceDepth]))
  rw [runFor_succ hentry, runFor_succ hhead]

variable (he : s.env = []) (hr : s.rstate = .attempting)
include he hr

/-- One turn of the loop: a PIN_READ is issued and completes. -/
theorem AtLoopHead.runFor_poll (h : AtLoopHead s ls (c :: rest) t) (hroom : ls.length < Config.traceDepth) :
    runFor 2 t = .next (t.sampled.detectChange c) := by
  have henv : t.env = [] := h.recorded.env.trans he
  have hroom : t.tlen < Config.traceDepth := h.recorded.tlen ▸ hroom
  have hissue : step t = .next (t.issue (pinReadWord t.pin)) :=
    CtrlStep.step_eq henv (.pollIssued h.recorded.outstanding (h.recorded.rstate.trans hr) h.phase h.polling hroom.ne)
  have hcomplete : step (t.issue (pinReadWord t.pin)) = .next (t.sampled.detectChange t.lineLevel) :=
    (step_nil (s := t.issue (pinReadWord t.pin)) henv).trans (ctrlFetch_poll rfl h.phase hroom)
  rw [runFor_two hissue hcomplete, State.lineLevel_cons h.recorded.line]

/-- A poll that does not settle the Levels leads back to the head of the loop. -/
theorem AtLoopHead.poll_unsettled (h : AtLoopHead s ls (c :: rest) t) (hroom : ls.length < Config.traceDepth)
    (hgo : ¬ Settled (ls ++ [c])) : ∃ u, runFor 2 t = .next u ∧ AtLoopHead s (ls ++ [c]) rest u := by
  refine ⟨_, h.runFor_poll he hr hroom, ?_⟩
  rcases h.detecting.sampled.detect c with ⟨-, hdetecting, hphase, hpolling⟩ | ⟨hstop, -⟩
  · exact ⟨h.recorded.poll, hdetecting, by simpa [hphase] using h.phase, by simpa [hpolling] using h.polling⟩
  · exact absurd hstop hgo

/-- The poll that settles the Levels ends the capture (41_sampler R125). -/
theorem AtLoopHead.poll_settled (h : AtLoopHead s ls (c :: rest) t) (hroom : ls.length < Config.traceDepth)
    (hstop : Settled (ls ++ [c])) :
    ∃ u, runFor 2 t = .next u ∧ Recorded s (ls ++ [c]) rest u ∧ u.phase = .extract ∧ u.polling = false ∧
      u.unchanged = 200 := by
  refine ⟨_, h.runFor_poll he hr hroom, h.recorded.poll, ?_⟩
  rcases h.detecting.sampled.detect c with ⟨hgo, -⟩ | ⟨-, hend⟩
  · exact absurd hstop hgo
  · exact hend

/-- The loop goes on as long as the Levels are not settled and fit in the trace. -/
theorem AtLoopHead.runFor_unsettled (more : List Level) (h : AtLoopHead s ls (more ++ rest) t)
    (hfit : ls.length + more.length ≤ Config.traceDepth)
    (hgo : ∀ n, n ≤ more.length → ¬ Settled (ls ++ more.take n)) :
    ∃ u, runFor (2 * more.length) t = .next u ∧ AtLoopHead s (ls ++ more) rest u := by
  induction more generalizing ls t with
  | nil => exact ⟨t, rfl, by simpa using h⟩
  | cons c more ih =>
    rw [List.length_cons] at hfit
    obtain ⟨u, hu, hhead⟩ := h.poll_unsettled he hr (by omega) (by simpa using hgo 1 (by simp))
    obtain ⟨v, hv, hlast⟩ := ih hhead (by simp; omega) fun n hn => by
      simpa using hgo (n + 1) (by simpa using hn)
    refine ⟨v, ?_, by simpa using hlast⟩
    rw [List.length_cons, Nat.mul_succ, Nat.add_comm, runFor_add hu, hv]

/-- At TRACE_DEPTH samples the head of the loop fails the attempt (41_sampler R126). -/
theorem AtLoopHead.step_timeout (h : AtLoopHead s ls rest t) (hfull : ls.length = Config.traceDepth) :
    step t = .next (t.failAttempt .acquisitionTimeout) :=
  CtrlStep.step_eq (h.recorded.env.trans he) (.timedOut h.recorded.outstanding (h.recorded.rstate.trans hr) h.phase h.polling
    (h.recorded.tlen.trans hfull))

end

/-- A complete capture is its last sample after Levels that are settled nowhere. -/
theorem CompleteCapture.exists_last {levels : List Level} (h : CompleteCapture levels) :
    ∃ before c, levels = before ++ [c] ∧ Settled (before ++ [c]) ∧
      ∀ n, n ≤ before.length → ¬ Settled (before.take n) := by
  obtain ⟨⟨d, hd⟩, hgo⟩ := h
  rcases levels.eq_nil_or_concat' with rfl | ⟨before, c, rfl⟩
  · have hlen := congrArg List.length hd
    rw [List.length_replicate] at hlen
    simp at hlen
  · refine ⟨before, c, rfl, ⟨d, hd⟩, fun n hn => ?_⟩
    have := hgo n (by simp; omega)
    rwa [List.take_append_of_le_length hn] at this

/-! ## The obligations on the sampler -/

/-- Settles O13, by the fields of each STEP's word (`handshakeWord_fields`). -/
theorem acqRequestIssuesTheHandshake : Obligations.AcqRequestIssuesTheHandshake := by
  intro s
  exact congrArg (fun w => (.next (s.issue w) : Result)) (handshakeWord_fields s.pin s.stepNo)

/-- Settles O14: the command completes (`exec_portCommand`), and CTRL's bookkeeping in ACQ_REQUEST follows
(`State.afterCommand_eq`). -/
theorem portCommandAdvancesTheHandshake : Obligations.PortCommandAdvancesTheHandshake := by
  intro i w s hw hread hphase
  rw [exec_portCommand i w s hw hread, State.afterCommand_eq]
  simp [hphase, State.completePort]

/-- Settles O17, by the three outcomes of ACQ_POLL (`acqPollAt_outcomes`). -/
theorem acqPollStartsPollsOrTimesOut : Obligations.AcqPollStartsPollsOrTimesOut := by
  refine ⟨fun s hentry => ?_, fun s hloop hroom => ?_, fun s hloop hfull => ?_⟩
  · rcases acqPollAt_outcomes s with ⟨hp, -⟩ | ⟨hp, -⟩ | ⟨-, h⟩
    · exact absurd hp (by simp [hentry])
    · exact absurd hp (by simp [hentry])
    · exact congrArg _ h
  · rcases acqPollAt_outcomes s with ⟨-, ht, -⟩ | ⟨-, -, h⟩ | ⟨hp, -⟩
    · exact absurd ht hroom
    · exact congrArg _ h
    · exact absurd hp (by simp [hloop])
  · rcases acqPollAt_outcomes s with ⟨-, -, h⟩ | ⟨-, ht, -⟩ | ⟨hp, -⟩
    · exact congrArg _ h
    · exact absurd hfull ht
    · exact absurd hp (by simp [hloop])

/-- Settles O18: the LINE moves as `State.advanceLine_moves` says, and the change detector writes its registers
(`State.detectChange_registers`) in the state with the sample appended. -/
theorem pinReadAppendsAndDetects : Obligations.PinReadAppendsAndDetects := by
  intro pin s hphase hroom
  obtain ⟨line, idx, hmove, hlisted, hfree⟩ := (s.completePort (pinReadWord pin)).advanceLine_moves
  have hexec := exec_pinRead_polling pin hphase hroom
  have hregisters := State.detectChange_registers s.lineLevel
    ((s.completePort (pinReadWord pin)).advanceLine.appendSample s.lineLevel)
  rw [hmove] at hexec hregisters
  refine ⟨_, s.lineLevel, hexec, fun l rest hl => ?_, fun hl => ?_, ?_, ?_, ?_, ?_, fun a ha => ?_, ?_, ?_⟩
  · simpa [State.lineLevel_cons hl] using hlisted l rest hl
  · simpa [State.lineLevel_nil hl] using hfree hl
  · simp
  · rw [State.detectChange_portLog]
    rfl
  · simp
  · simp
  · simpa using Memory.readByte_writeByte_other _ _ ha
  · simpa [hphase] using hregisters
  · rw [State.detectChange_frame]
    rfl

/-- Settles O20: six commands by `runFor_firstCommands`, and the last one, which ends the handshake. -/
theorem handshakeRunSendsSevenCommands : Obligations.HandshakeRunSendsSevenCommands := by
  intro s he ho hr hp hn
  have hsix := runFor_firstCommands he ho hr hp hn 6 le_rfl
  rw [show 14 = 2 * 6 + 2 from rfl, runFor_add hsix, runFor_handshakeCommand (s := handshakeAt s 6) he ho hr hp,
    ← handshakeSent_seven]
  simp [handshakeAt, State.advanceHandshake, State.completePort, State.enterPoll, handshakeSent, ho, hn]

/-- Settles O21: the loop runs up to the last sample (`AtLoopHead.runFor_unsettled`), and that sample ends the capture. -/
theorem captureRunRecordsTheLine : Obligations.CaptureRunRecordsTheLine := by
  intro s levels rest he ho hr hp hc hline hcomplete hfit
  obtain ⟨before, c, rfl, hstop, hgo⟩ := hcomplete.exists_last
  have hlen : (before ++ [c]).length = before.length + 1 := by simp
  rw [hlen] at hfit
  have hstart := atLoopHead_startCapture ho hp
  rw [hline, List.append_assoc, List.singleton_append] at hstart
  obtain ⟨t, hrun, hhead⟩ := hstart.runFor_unsettled he hr before (by simp; omega) (by simpa using hgo)
  obtain ⟨u, hlast, hrec, hphase, hpolling, hunchanged⟩ :=
    hhead.poll_settled he hr (by simp; omega) (by simpa using hstop)
  rw [List.nil_append] at hrec
  refine ⟨u, ?_, hphase, hrec.tlen, hrec.readTrace, hunchanged, hrec.portLog, ?_⟩
  · rw [hlen, Nat.mul_succ, runFor_startCapture he ho hr hp hc (2 * before.length + 1), runFor_add (b := 2) hrun, hlast]
  · calc u = withCapture s u := hrec.same
      _ = _ := by simp only [withCapture, hphase, hpolling, hrec.outstanding, hrec.line, hc, ho]

/-- Settles O22: the loop runs through TRACE_DEPTH samples (`AtLoopHead.runFor_unsettled`), and its head then fails the
attempt. -/
theorem captureRunTimesOutOnARestlessLine : Obligations.CaptureRunTimesOutOnARestlessLine := by
  intro s levels rest he ho hr hp hc hline hfull hgo
  have hstart := atLoopHead_startCapture ho hp
  rw [hline] at hstart
  obtain ⟨t, hrun, hhead⟩ := hstart.runFor_unsettled he hr levels (by simp [hfull]) (by simpa using hgo)
  have hfail : step t = .next (t.failAttempt .acquisitionTimeout) := hhead.step_timeout he hr (by simpa using hfull)
  have hsame := hhead.recorded.same
  refine ⟨t.failAttempt .acquisitionTimeout, ?_, rfl, rfl, ?_, rfl, hhead.recorded.line, ?_, hhead.recorded.rstate, ?_, ?_,
    ?_, hhead.recorded.outstanding⟩
  · rw [runFor_startCapture he ho hr hp hc, runFor_add hrun, runFor_one hfail]
  · rw [hsame]; rfl
  · simpa using hhead.recorded.portLog
  · rw [hsame]; rfl
  · rw [hsame]; rfl
  · rw [hsame]; rfl

end Sys2Proof.Safety

/-! PROOF. The statements of 42_pulse_extractor: the scan of EXTRACT against the unbounded list of widths (R141 to R147), the
traces it is given (R146 f, R148 a), and the three steps from a good frame's trace to its Reading. -/

namespace Sys2Proof.Safety

open Sys2Proof.Machine

/-! ## What the scan has emitted (42_extractor R143) -/

/-- A scan that began with the width file `pw` and has emitted the widths ws: PCOUNT counts them up to 41, and the first forty
stand in PW. -/
structure Emitted (pw : Vector Nat 40) (ws : List Nat) (r : Scan) : Prop where
  pcount : r.pcount.toNat = min ws.length 41
  entry : ∀ i (hi : i < 40), r.pw[i] = ws.getD i pw[i]

theorem Emitted.emit {pw : Vector Nat 40} {ws : List Nat} {r : Scan} (h : Emitted pw ws r) (v : Nat) :
    Emitted pw (ws ++ [v]) (r.emit v) where
  pcount := by
    have hcount := h.pcount
    rw [Scan.emit_pcount, List.length_append, List.length_singleton]
    split <;> omega
  entry i hi := by
    have hcount := h.pcount
    rw [Scan.emit_getElem v r i hi, h.entry i hi]
    rcases Nat.lt_trichotomy i ws.length with hlt | rfl | hgt
    · rw [if_neg (by omega), List.getD_append _ _ _ _ hlt]
    · rw [if_pos (by omega)]
      simp
    · rw [if_neg (by omega), List.getD_eq_default _ _ (by omega), List.getD_eq_default _ _ (by simp; omega)]

/-- RUN is no part of what has been emitted. -/
theorem Emitted.withRun {pw : Vector Nat 40} {ws : List Nat} {r : Scan} (h : Emitted pw ws r) (n : Nat) :
    Emitted pw ws { r with run := n } := ⟨h.pcount, h.entry⟩

/-- The width file as a list: the first forty widths, then the entries of before (42_extractor R143, R145). -/
theorem Emitted.pw_toList {pw : Vector Nat 40} {ws : List Nat} {r : Scan} (h : Emitted pw ws r) :
    r.pw.toList = ws.take 40 ++ pw.toList.drop ws.length := by
  refine List.ext_getElem (by simp; omega) fun i hi _ => ?_
  rw [Vector.length_toList] at hi
  rw [Vector.getElem_toList, h.entry i hi]
  by_cases hlt : i < ws.length
  · rw [List.getElem_append_left (by simp; omega), List.getElem_take, List.getD_eq_getElem _ _ hlt]
  · rw [List.getElem_append_right (by simp; omega), List.getElem_drop, List.getD_eq_default _ _ (by omega)]
    simp only [List.length_take, Vector.getElem_toList]
    congr 1
    omega

/-! ## The scan in DATA (42_extractor R143, R144) -/

theorem openRun_append_low (ls rest : List Level) : openRun (ls ++ .low :: rest) = openRun rest := by
  have stop : ∀ front back : List Level,
      (front ++ .low :: back).takeWhile (· == .high) = front.takeWhile (· == .high) := by
    intro front back
    induction front with
    | nil => rfl
    | cons l front ih => cases l <;> simp [ih]
  simp [openRun, stop]

theorem openRun_replicate_high (n : Nat) : openRun (List.replicate n .high) = n := by
  simp [openRun]

/-- From DATA on, a Low that ends a High run emits its length, and RUN holds the High run that is still open. -/
theorem foldl_sample_of_data {pw : Vector Nat 40} {ws : List Nat} {r : Scan} (hxs : r.xs = .data) (h : Emitted pw ws r)
    (ls : List Level) :
    (ls.foldl Scan.sample r).xs = .data ∧ Emitted pw (ws ++ highRuns r.run ls) (ls.foldl Scan.sample r) ∧
      (ls.foldl Scan.sample r).run = openRun (List.replicate r.run .high ++ ls) := by
  induction ls generalizing ws r with
  | nil => exact ⟨hxs, by simpa [highRuns] using h, by simp [openRun_replicate_high]⟩
  | cons c ls ih =>
    rw [List.foldl_cons]
    obtain ⟨xs, run, pcount, file⟩ := r
    cases hxs
    match c, run with
    | .high, n =>
      have hnext := ih (r := ⟨.data, n + 1, pcount, file⟩) rfl (h.withRun (n + 1))
      simpa [Scan.sample, highRuns, List.replicate_succ'] using hnext
    | .low, 0 =>
      have hopen : openRun (.low :: ls) = openRun ls := openRun_append_low [] ls
      simpa [Scan.sample, highRuns, hopen] using ih rfl h
    | .low, n + 1 =>
      have hnext := ih (r := { Scan.emit (n + 1) ⟨.data, n + 1, pcount, file⟩ with run := 0 }) rfl
        ((h.emit (n + 1)).withRun 0)
      simpa [Scan.sample, highRuns, openRun_append_low] using hnext

/-! ## The search for the marker (42_extractor R141, R142) -/

/-- A scan that passes over one Level, and at the other comes to a state that passes over it, skips the leading samples. -/
theorem foldl_sample_of_seek {r q : Scan} {skip : Level} (hskip : r.sample skip = r)
    (hfound : ∀ c, c ≠ skip → r.sample c = q ∧ q.sample c = q) (ls : List Level) :
    ls.foldl Scan.sample r =
      if ls.dropWhile (· == skip) = [] then r else (ls.dropWhile (· == skip)).foldl Scan.sample q := by
  induction ls with
  | nil => rfl
  | cons c ls ih =>
    by_cases hc : c = skip
    · subst hc
      simpa [hskip] using ih
    · simp [hc, hfound c hc]

/-- The scan of a trace is a scan of what follows the marker, from the state that the marker has been found in. -/
theorem scan_trace_eq_afterMarker (pw : Vector Nat 40) (levels : List Level) :
    Scan.trace pw levels = (afterMarker levels).foldl Scan.sample { Scan.start pw with xs := scanEnd levels } := by
  have seekLow := foldl_sample_of_seek (r := ⟨.seekLow, 0, 0, pw⟩) (q := ⟨.seekHigh, 0, 0, pw⟩) (skip := .high) rfl
    (fun c hc => by cases c <;> simp_all [Scan.sample])
  have seekHigh := foldl_sample_of_seek (r := ⟨.seekHigh, 0, 0, pw⟩) (q := ⟨.seekFall, 0, 0, pw⟩) (skip := .low) rfl
    (fun c hc => by cases c <;> simp_all [Scan.sample])
  have seekFall := foldl_sample_of_seek (r := ⟨.seekFall, 0, 0, pw⟩) (q := ⟨.data, 0, 0, pw⟩) (skip := .high) rfl
    (fun c hc => by cases c <;> simp_all [Scan.sample])
  rw [Scan.trace, Scan.start, seekLow, seekHigh, seekFall, scanEnd, afterMarker]
  split_ifs with hlow hhigh hfall
  · simp [hlow]
  · simp [hhigh]
  · simp [hfall]
  · rfl

/-- EXTRACT's scan of a trace (42_extractor R145): it ends in DATA exactly when it has found the marker, it has emitted the
pulse widths, and RUN holds the High run that no Low ends. -/
theorem scan_trace_measures (pw : Vector Nat 40) (levels : List Level) :
    (Scan.trace pw levels).xs = scanEnd levels ∧ Emitted pw (pulseWidths levels) (Scan.trace pw levels) ∧
      (Scan.trace pw levels).run = openRun (afterMarker levels) := by
  have start : ∀ xs, Emitted pw [] { Scan.start pw with xs := xs } := fun _ => ⟨rfl, fun _ _ => rfl⟩
  rw [scan_trace_eq_afterMarker]
  by_cases hmarker : afterMarker levels = []
  · rw [pulseWidths, hmarker]
    exact ⟨rfl, start _, rfl⟩
  · have hdata : scanEnd levels = .data := by
      rw [scanEnd]
      split_ifs <;> simp_all [afterMarker]
    rw [hdata]
    exact foldl_sample_of_data rfl (start .data) (afterMarker levels)

/-! ## EXTRACT on a trace that can be read -/

/-- EXTRACT scans the trace and judges the number of widths (42_extractor R145). -/
theorem exec_extract {s : State} {levels : List Level} (h : s.readTrace = .ok levels) :
    exec .extract s = .next (s.storeScan (Scan.trace s.pw levels)).judgeLength :=
  (execExtract_eq_next_iff _ _).2 ⟨levels, h, rfl⟩

/-- PCOUNT, which saturates at 41, tells forty widths from every other number (42_extractor R147). -/
theorem scan_trace_pcount_iff (pw : Vector Nat 40) (levels : List Level) :
    (Scan.trace pw levels).pcount.toNat = Config.nBits ↔ (pulseWidths levels).length = 40 := by
  obtain ⟨-, hemitted, -⟩ := scan_trace_measures pw levels
  have hcount := hemitted.pcount
  rw [Config.nBits]
  omega

/-- With forty widths EXTRACT goes on to DECODE (42_extractor R145). -/
theorem judgeLength_of_forty {s : State} {levels : List Level} (h : (pulseWidths levels).length = 40) :
    (s.storeScan (Scan.trace s.pw levels)).judgeLength = (s.storeScan (Scan.trace s.pw levels)).enterDecode :=
  if_pos ((scan_trace_pcount_iff _ _).2 h)

/-- With any other number of widths the attempt fails (42_extractor R145, 45_retry R172). -/
theorem judgeLength_of_other {s : State} {levels : List Level} (h : (pulseWidths levels).length ≠ 40) :
    (s.storeScan (Scan.trace s.pw levels)).judgeLength =
      (s.storeScan (Scan.trace s.pw levels)).failAttempt .invalidFrameLength :=
  if_neg (mt (scan_trace_pcount_iff _ _).1 h)

/-- The width file after a trace of forty widths. -/
theorem scan_trace_pw_of_forty {pw : Vector Nat 40} {levels : List Level} (h : (pulseWidths levels).length = 40) :
    (Scan.trace pw levels).pw.toList = pulseWidths levels := by
  obtain ⟨-, hemitted, -⟩ := scan_trace_measures pw levels
  rw [hemitted.pw_toList, h, List.take_of_length_le h.le, List.drop_of_length_le (by simp), List.append_nil]

/-! ## The widths of the traces of R146 and R148 -/

theorem highRuns_replicate_high (n m : Nat) (ls : List Level) :
    highRuns n (List.replicate m .high ++ ls) = highRuns (n + m) ls := by
  induction m generalizing n with
  | zero => rfl
  | succ m ih =>
    rw [List.replicate_succ, List.cons_append, highRuns, ih]
    congr 1
    omega

/-- Low samples with no High run before them emit nothing. -/
theorem highRuns_replicate_low (m : Nat) (ls : List Level) : highRuns 0 (List.replicate m .low ++ ls) = highRuns 0 ls := by
  induction m with
  | zero => rfl
  | succ m ih => rw [List.replicate_succ, List.cons_append, highRuns, ih]

/-- One clean pulse: its High run is the width, and its Low run ends it. -/
theorem highRuns_pulse (h l : Nat) (ls : List Level) :
    highRuns 0 (List.replicate (h + 1) .high ++ (List.replicate (l + 1) .low ++ ls)) = (h + 1) :: highRuns 0 ls := by
  rw [highRuns_replicate_high, Nat.zero_add, List.replicate_succ, List.cons_append, highRuns, highRuns_replicate_low]

theorem highRuns_cleanPulses (pulses : List (Nat × Nat)) (ls : List Level) :
    highRuns 0 (cleanPulses pulses ++ ls) = pulses.map (fun p => p.1 + 1) ++ highRuns 0 ls := by
  induction pulses with
  | nil => rfl
  | cons p pulses ih =>
    rw [cleanPulses, List.flatMap_cons, List.append_assoc, List.append_assoc, highRuns_pulse, ← cleanPulses, ih,
      List.map_cons, List.cons_append]

/-- A tail of one Level holds no ended High run (42_extractor R144). -/
theorem highRuns_replicate (n : Nat) (c : Level) : highRuns 0 (List.replicate n c) = [] := by
  cases c with
  | low => simpa [highRuns] using highRuns_replicate_low n []
  | high => simpa [highRuns] using highRuns_replicate_high 0 n []

/-- The marker of a well-formed trace is skipped whole. -/
theorem afterMarker_markedTrace (lead low high gap : Nat) (pulses : List (Nat × Nat)) (tail : Level) (n : Nat) :
    afterMarker (markedTrace lead low high gap pulses tail n) =
      List.replicate (gap + 1) .low ++ (cleanPulses pulses ++ List.replicate n tail) := by
  have skip : ∀ (m : Nat) (c : Level) (rest : List Level),
      (List.replicate m c ++ rest).dropWhile (· == c) = rest.dropWhile (· == c) :=
    fun m c rest => List.dropWhile_append_of_pos fun l hl => beq_iff_eq.2 (List.eq_of_mem_replicate hl)
  have keep : ∀ (m : Nat) (c d : Level) (rest : List Level), c ≠ d →
      (List.replicate (m + 1) c ++ rest).dropWhile (· == d) = List.replicate (m + 1) c ++ rest :=
    fun m c d rest hcd => by simp [List.replicate_succ, hcd]
  simp only [afterMarker, markedTrace, List.append_assoc]
  rw [skip, keep _ _ _ _ (by decide), skip, keep _ _ _ _ (by decide), skip, keep _ _ _ _ (by decide)]

/-- The widths of a well-formed trace are those of its pulses, in capture order (42_extractor R146 f). -/
theorem pulseWidths_markedTrace (lead low high gap : Nat) (pulses : List (Nat × Nat)) (tail : Level) (n : Nat) :
    pulseWidths (markedTrace lead low high gap pulses tail n) = pulses.map (fun p => p.1 + 1) := by
  rw [pulseWidths, afterMarker_markedTrace, highRuns_replicate_low, highRuns_cleanPulses, highRuns_replicate,
    List.append_nil]

/-- A trace of one Level has no marker (42_extractor R148 a). -/
theorem pulseWidths_replicate (n : Nat) (c : Level) : pulseWidths (List.replicate n c) = [] := by
  have hmarker : afterMarker (List.replicate n c) = [] := by
    cases c <;> simp [afterMarker]
  rw [pulseWidths, hmarker, highRuns]

/-! ## The bits of forty pulses of two widths (43_decoder R151 to R153) -/

theorem leastWidth_le {ws : List Nat} {w : Nat} (h : w ∈ ws) : leastWidth ws ≤ w := by
  cases ws with
  | nil => cases h
  | cons v ws => exact (leastWidth_spec v ws).2 w h

theorem le_greatestWidth {ws : List Nat} {w : Nat} (h : w ∈ ws) : w ≤ greatestWidth ws := by
  cases ws with
  | nil => cases h
  | cons v ws => exact (greatestWidth_spec v ws).2 w h

/-- Where a 1 is the longer of two widths and some bit is 0, DECODE finds the bits. With no 1 at all the threshold is the one
width there is, which is not above it; with no 0 the ones would read as zeros (43_decoder R156 b). -/
theorem accumulate_of_two_widths {pw : Vector Nat 40} {bits : BitVec 40} {w0 w1 : Nat} (hlt : w0 < w1)
    (hpw : ∀ i (hi : i < 40), pw[i] = if bits.getLsbD (39 - i) then w1 else w0)
    (hzero : ∃ i, i < 40 ∧ bits.getLsbD (39 - i) = false) :
    accumulate (leastWidth pw.toList) (greatestWidth pw.toList) pw.toList = bits := by
  have hmem : ∀ i (hi : i < 40), pw[i] ∈ pw.toList := fun i hi => by simp
  have hrange : ∀ w ∈ pw.toList, w0 ≤ w ∧ w ≤ w1 := by
    intro w hw
    obtain ⟨i, hi, rfl⟩ := Vector.getElem_of_mem (Vector.mem_toList_iff.1 hw)
    rw [hpw i hi]
    split <;> omega
  have hne : pw.toList ≠ [] := List.ne_nil_of_mem (hmem 0 (by omega))
  have hgreatest := (hrange _ (greatestWidth_mem hne)).2
  have hleast : leastWidth pw.toList = w0 := by
    obtain ⟨i, hi, hbit⟩ := hzero
    refine Nat.le_antisymm ?_ (hrange _ (leastWidth_mem hne)).1
    simpa [hpw i hi, hbit] using leastWidth_le (hmem i hi)
  refine BitVec.eq_of_getLsbD_eq fun j hj => ?_
  obtain ⟨i, hi, rfl⟩ : ∃ i, i < 40 ∧ j = 39 - i := ⟨39 - j, by omega, by omega⟩
  have hi_le := le_greatestWidth (hmem i hi)
  rw [accumulate_getLsbD _ _ _ _ hi, widthBit, hleast]
  rw [hpw i hi] at hi_le ⊢
  cases hbit : bits.getLsbD (39 - i) <;> simp [hbit] at hi_le ⊢ <;> omega

/-- The width file that holds the pulses of a frame, entry by entry. -/
theorem getElem_of_framePulses {pw : Vector Nat 40} {short long gap : Nat} {bits : BitVec 40}
    (h : pw.toList = (framePulses short long gap bits).map (fun p => p.1 + 1)) (i : Nat) (hi : i < 40) :
    pw[i] = if bits.getLsbD (39 - i) then long + 1 else short + 1 := by
  rw [← Vector.getElem_toList (by simpa using hi), List.getElem_of_eq h]
  simp only [framePulses, List.getElem_map, List.getElem_range]
  split <;> rfl

/-! ## A frame with a right checksum (44_validator R161 to R163) -/

section Frame

variable (b0 b1 b2 b3 b4 : BitVec 8)

theorem frameSum_append : frameSum (b0 ++ b1 ++ b2 ++ b3 ++ b4) =
    BitVec.ofNat 8 (b0.toNat + b1.toNat + b2.toNat + b3.toNat) := by
  obtain ⟨h0, h1, h2, h3, -⟩ := frameByte_append b0 b1 b2 b3 b4
  rw [frameSum, h0, h1, h2, h3]

/-- The test of VALIDATE on five bytes (44_validator R161). -/
theorem frameByte_four_eq_frameSum_iff :
    frameByte (b0 ++ b1 ++ b2 ++ b3 ++ b4) 4 = frameSum (b0 ++ b1 ++ b2 ++ b3 ++ b4) ↔
      b4.toNat = (b0.toNat + b1.toNat + b2.toNat + b3.toNat) % 256 := by
  obtain ⟨-, -, -, -, h4⟩ := frameByte_append b0 b1 b2 b3 b4
  rw [h4, frameSum_append, ← BitVec.toNat_inj, BitVec.toNat_ofNat]

/-- The humidity of five bytes, which fits its register (44_validator R162, R166). -/
theorem toInt_humidity : (toTenths (humidityTenths (b0 ++ b1 ++ b2 ++ b3 ++ b4))).toInt = 10 * b0.toNat + b1.toNat := by
  obtain ⟨h0, h1, -⟩ := frameByte_append b0 b1 b2 b3 b4
  have hb0 := b0.isLt
  have hb1 := b1.isLt
  rw [humidityTenths, h0, h1, toInt_toTenths] <;> omega

/-- The temperature of five bytes, which fits its register (44_validator R163, R166). -/
theorem toInt_temperature : (toTenths (temperatureTenths (b0 ++ b1 ++ b2 ++ b3 ++ b4))).toInt =
    if b3.getLsbD 7 then -(10 * (b2.toNat : Int) + b3.toNat % 128) else 10 * (b2.toNat : Int) + b3.toNat % 128 := by
  obtain ⟨-, -, h2, h3, -⟩ := frameByte_append b0 b1 b2 b3 b4
  have hvalue : temperatureTenths (b0 ++ b1 ++ b2 ++ b3 ++ b4) =
      if b3.getLsbD 7 then -(10 * (b2.toNat : Int) + b3.toNat % 128) else 10 * (b2.toNat : Int) + b3.toNat % 128 := by
    rw [temperatureTenths, temperatureMagnitude, h2, h3, low7_toNat]
    push_cast
    rfl
  have hb2 := b2.isLt
  rw [hvalue, toInt_toTenths] <;> split <;> omega

/-- A frame of ones only has a wrong checksum: 4 * 255 is 252 modulo 256. -/
theorem exists_zero_bit_of_checksum (h : b4.toNat = (b0.toNat + b1.toNat + b2.toNat + b3.toNat) % 256) :
    ∃ i, i < 40 ∧ (b0 ++ b1 ++ b2 ++ b3 ++ b4).getLsbD (39 - i) = false := by
  by_contra hnone
  push Not at hnone
  have hones : b0 ++ b1 ++ b2 ++ b3 ++ b4 = BitVec.allOnes 40 := by
    refine BitVec.eq_of_getLsbD_eq fun j hj => ?_
    rw [BitVec.getLsbD_allOnes, decide_eq_true hj, ← Nat.sub_sub_self (show j ≤ 39 by omega)]
    simpa using hnone (39 - j) (by omega)
  have hsum := (frameByte_four_eq_frameSum_iff b0 b1 b2 b3 b4).2 h
  rw [hones] at hsum
  exact absurd hsum (by decide)

/-- DECODE and VALIDATE on widths whose bits are a frame with a right checksum (43_decoder R155, 44_validator R164). -/
theorem runFor_decode_validate {t : State} (he : t.env = []) (ho : t.outstanding = none) (hr : t.rstate = .attempting)
    (hp : t.phase = .decode) (hacc : t.storeDecoded.acc = b0 ++ b1 ++ b2 ++ b3 ++ b4)
    (hcheck : b4.toNat = (b0.toNat + b1.toNat + b2.toNat + b3.toNat) % 256) :
    runFor 2 t = .next (t.storeDecoded.storeSum.succeed (toTenths (temperatureTenths (b0 ++ b1 ++ b2 ++ b3 ++ b4)))
      (toTenths (humidityTenths (b0 ++ b1 ++ b2 ++ b3 ++ b4)))) := by
  have hsum := (frameByte_four_eq_frameSum_iff b0 b1 b2 b3 b4).2 hcheck
  rw [← hacc] at hsum ⊢
  exact runFor_two (CtrlStep.step_eq he (.decoded ho hr hp))
    (CtrlStep.step_eq (s := t.storeDecoded) he (.accepted ho hr rfl hsum))

end Frame

/-! ## The obligations on the extractor -/

/-- Settles O23: the scan measures the trace (`scan_trace_measures`), and the length is forty or it is not. -/
theorem extractMeasuresThePulseWidths : Obligations.ExtractMeasuresThePulseWidths := by
  intro s levels hread
  obtain ⟨hxs, hemitted, hrun⟩ := scan_trace_measures s.pw levels
  refine ⟨_, exec_extract hread, ?_⟩
  by_cases hforty : (pulseWidths levels).length = 40
  · rw [judgeLength_of_forty hforty, if_pos hforty]
    exact ⟨hemitted.pcount, hemitted.pw_toList, ⟨rfl, rfl, rfl, rfl⟩, hxs, hrun, rfl⟩
  · rw [judgeLength_of_other hforty, if_neg hforty]
    exact ⟨hemitted.pcount, hemitted.pw_toList, ⟨rfl, rfl, rfl, rfl⟩, hxs, hrun, rfl⟩

/-- Settles O24: the trace has the widths of its pulses (`pulseWidths_markedTrace`), of which there are forty. -/
theorem extractYieldsFortyCleanPulses : Obligations.ExtractYieldsFortyCleanPulses := by
  intro s lead low high gap pulses tail n hlen hread
  have hwidths := pulseWidths_markedTrace lead low high gap pulses tail n
  have hforty : (pulseWidths (markedTrace lead low high gap pulses tail n)).length = 40 := by simp [hwidths, hlen]
  refine ⟨_, exec_extract hread, ?_⟩
  rw [judgeLength_of_forty hforty]
  exact ⟨rfl, BitVec.eq_of_toNat_eq ((scan_trace_pcount_iff _ _).2 hforty), (scan_trace_pw_of_forty hforty).trans hwidths⟩

/-- Settles O25: the trace has no widths (`pulseWidths_replicate`), so the scan has emitted none. -/
theorem extractRejectsAConstantLine : Obligations.ExtractRejectsAConstantLine := by
  intro s c n hread
  obtain ⟨-, hemitted, -⟩ := scan_trace_measures s.pw (List.replicate n c)
  rw [pulseWidths_replicate] at hemitted
  refine ⟨_, exec_extract hread, ?_⟩
  rw [judgeLength_of_other (by simp [pulseWidths_replicate])]
  exact ⟨BitVec.eq_of_toNat_eq hemitted.pcount, Vector.toList_inj.1 hemitted.pw_toList, rfl, rfl, rfl⟩

/-- Settles O42: EXTRACT finds the frame's forty widths, DECODE its bits (`accumulate_of_two_widths`), of which a right checksum
leaves one 0 at least, and VALIDATE accepts them. -/
theorem goodFrameRunSucceeds : Obligations.GoodFrameRunSucceeds := by
  intro s b0 b1 b2 b3 b4 lead low high gap short long between tail n hlt hcheck he ho hr hp hread
  have hwidths := pulseWidths_markedTrace lead low high gap
    (framePulses short long between (b0 ++ b1 ++ b2 ++ b3 ++ b4)) tail n
  generalize markedTrace lead low high gap (framePulses short long between (b0 ++ b1 ++ b2 ++ b3 ++ b4)) tail n = levels
    at hread hwidths
  have hforty : (pulseWidths levels).length = 40 := by simp [hwidths, framePulses]
  have hpw := getElem_of_framePulses ((scan_trace_pw_of_forty (pw := s.pw) hforty).trans hwidths)
  have hextract := CtrlStep.step_eq he (.extracted levels ho hr hp hread ((scan_trace_pcount_iff _ _).2 hforty))
  have hacc := accumulate_of_two_widths (Nat.succ_lt_succ hlt) hpw (exists_zero_bit_of_checksum b0 b1 b2 b3 b4 hcheck)
  have hrest := runFor_decode_validate b0 b1 b2 b3 b4
    (t := (s.storeScan (Scan.trace s.pw levels)).enterDecode) he ho hr rfl hacc hcheck
  exact ⟨_, (runFor_succ hextract).trans hrest, rfl, rfl, rfl, rfl, rfl, rfl,
    toInt_humidity b0 b1 b2 b3 b4, toInt_temperature b0 b1 b2 b3 b4⟩

end Sys2Proof.Safety

/-! PROOF. The statements of 43_bit_decoder: the threshold of DECODE (R151 to R153, R155), its independence of the poll rate
(R156 d), and the frames it finds in equal widths (R156 b) and in two clusters of widths (R156 f). -/

namespace Sys2Proof.Safety

open Sys2Proof.Machine

/-! ## DECODE and VALIDATE as operations (43_decoder R155, 44_validator R164) -/

theorem exec_decode (s : State) : exec .decode s = .next s.storeDecoded := rfl

/-- VALIDATE on a frame with a right checksum. -/
theorem exec_validate_of_checksum {s : State} (h : frameByte s.acc 4 = frameSum s.acc) :
    exec .validate s =
      .next (s.storeSum.succeed (toTenths (temperatureTenths s.acc)) (toTenths (humidityTenths s.acc))) := by
  rcases s.storeSum.judgeChecksum_cases with ⟨-, hjudge⟩ | ⟨hwrong, -⟩
  · exact congrArg _ hjudge
  · exact absurd h hwrong

/-! ## Forty bits in capture order (43_decoder R153) -/

/-- A 40-bit value is known by its bits in capture order, the highest first. -/
theorem eq_of_captured_bits_eq {a b : BitVec 40} (h : ∀ i, i < 40 → a.getLsbD (39 - i) = b.getLsbD (39 - i)) : a = b := by
  refine BitVec.eq_of_getLsbD_eq fun j hj => ?_
  rw [← Nat.sub_sub_self (show j ≤ 39 by omega)]
  exact h (39 - j) (by omega)

theorem exists_captured_bit_ne {a b : BitVec 40} (h : a ≠ b) : ∃ i, i < 40 ∧ a.getLsbD (39 - i) ≠ b.getLsbD (39 - i) := by
  by_contra hnone
  push Not at hnone
  exact h (eq_of_captured_bits_eq hnone)

theorem exists_one_bit {bits : BitVec 40} (h : bits ≠ 0) : ∃ i, i < 40 ∧ bits.getLsbD (39 - i) = true := by
  obtain ⟨i, hi, hbit⟩ := exists_captured_bit_ne h
  exact ⟨i, hi, by simpa using hbit⟩

theorem exists_zero_bit {bits : BitVec 40} (h : bits ≠ BitVec.allOnes 40) :
    ∃ i, i < 40 ∧ bits.getLsbD (39 - i) = false := by
  obtain ⟨i, hi, hbit⟩ := exists_captured_bit_ne h
  rw [BitVec.getLsbD_allOnes, decide_eq_true (show 39 - i < 40 by omega)] at hbit
  exact ⟨i, hi, Bool.eq_false_of_not_eq_true hbit⟩

/-! ## The width file (10_state R31) -/

theorem widthFile_ne_nil (pw : Vector Nat 40) : pw.toList ≠ [] := List.ne_nil_of_length_pos (by simp)

/-- An entry of the width file is one of the widths. -/
theorem getElem_mem_widthFile (pw : Vector Nat 40) {i : Nat} (hi : i < 40) : pw[i] ∈ pw.toList := by simp

theorem exists_entry_of_mem {pw : Vector Nat 40} {w : Nat} (h : w ∈ pw.toList) : ∃ i, ∃ hi : i < 40, pw[i] = w :=
  Vector.getElem_of_mem (Vector.mem_toList_iff.1 h)

/-! ## Scaled widths (43_decoder R156 d) -/

/-- Scaling keeps the order of the widths, so it scales the least of them. -/
theorem leastWidth_map_mul (k : Nat) {ws : List Nat} (h : ws ≠ []) :
    leastWidth (ws.map (fun w => k * w)) = k * leastWidth ws := by
  refine Nat.le_antisymm (leastWidth_le (List.mem_map_of_mem (leastWidth_mem h))) ?_
  obtain ⟨w, hw, hleast⟩ := List.mem_map.1 (leastWidth_mem (by simpa using h : ws.map (fun w => k * w) ≠ []))
  exact hleast ▸ Nat.mul_le_mul_left k (leastWidth_le hw)

theorem greatestWidth_map_mul (k : Nat) {ws : List Nat} (h : ws ≠ []) :
    greatestWidth (ws.map (fun w => k * w)) = k * greatestWidth ws := by
  refine Nat.le_antisymm ?_ (le_greatestWidth (List.mem_map_of_mem (greatestWidth_mem h)))
  obtain ⟨w, hw, hgreatest⟩ := List.mem_map.1 (greatestWidth_mem (by simpa using h : ws.map (fun w => k * w) ≠ []))
  exact hgreatest ▸ Nat.mul_le_mul_left k (le_greatestWidth hw)

/-- The comparison of R152 is between multiples of the scale. -/
theorem widthBit_mul {k : Nat} (hk : 0 < k) (lo hi w : Nat) : widthBit (k * lo) (k * hi) (k * w) = widthBit lo hi w := by
  refine decide_eq_decide.2 ?_
  rw [← Nat.mul_add, Nat.mul_left_comm, Nat.mul_lt_mul_left hk]

theorem accumulate_map_mul {k : Nat} (hk : 0 < k) (lo hi : Nat) (ws : List Nat) :
    accumulate (k * lo) (k * hi) (ws.map (fun w => k * w)) = accumulate lo hi ws := by
  simp only [accumulate, List.foldl_map, widthBit_mul hk]

/-! ## Two clusters of widths (43_decoder R156 f) -/

/-- The widths of 0 bits lie in [lo0, hi0] and those of 1 bits in [lo1, hi1]. -/
def InBands (pw : Vector Nat 40) (bits : BitVec 40) (lo0 hi0 lo1 hi1 : Nat) : Prop :=
  ∀ (i : Nat) (h : i < 40), if bits.getLsbD (39 - i) then lo1 ≤ pw[i] ∧ pw[i] ≤ hi1 else lo0 ≤ pw[i] ∧ pw[i] ≤ hi0

section Bands

variable {pw : Vector Nat 40} {bits : BitVec 40} {lo0 hi0 lo1 hi1 : Nat}

theorem InBands.of_one (h : InBands pw bits lo0 hi0 lo1 hi1) {i : Nat} (hi : i < 40) (hbit : bits.getLsbD (39 - i) = true) :
    lo1 ≤ pw[i] ∧ pw[i] ≤ hi1 := by
  simpa [hbit] using h i hi

theorem InBands.of_zero (h : InBands pw bits lo0 hi0 lo1 hi1) {i : Nat} (hi : i < 40)
    (hbit : bits.getLsbD (39 - i) = false) : lo0 ≤ pw[i] ∧ pw[i] ≤ hi0 := by
  simpa [hbit] using h i hi

/-- Every width lies in one of the bands. -/
theorem InBands.of_mem (h : InBands pw bits lo0 hi0 lo1 hi1) {w : Nat} (hw : w ∈ pw.toList) :
    lo0 ≤ w ∧ w ≤ hi0 ∨ lo1 ≤ w ∧ w ≤ hi1 := by
  obtain ⟨i, hi, rfl⟩ := exists_entry_of_mem hw
  cases hbit : bits.getLsbD (39 - i) with
  | false => exact .inl (h.of_zero hi hbit)
  | true => exact .inr (h.of_one hi hbit)

/-- Where some bit is 0, the least width lies in the lower band. -/
theorem InBands.leastWidth_mem_band (h : InBands pw bits lo0 hi0 lo1 hi1) (hgap : hi0 < lo1)
    (hzero : ∃ i, i < 40 ∧ bits.getLsbD (39 - i) = false) : lo0 ≤ leastWidth pw.toList ∧ leastWidth pw.toList ≤ hi0 := by
  obtain ⟨i, hi, hbit⟩ := hzero
  have hle := leastWidth_le (getElem_mem_widthFile pw hi)
  have hband := h.of_zero hi hbit
  have hleast := h.of_mem (leastWidth_mem (widthFile_ne_nil pw))
  omega

/-- Where some bit is 1, the greatest width lies in the upper band. -/
theorem InBands.greatestWidth_mem_band (h : InBands pw bits lo0 hi0 lo1 hi1) (hgap : hi0 < lo1)
    (hone : ∃ i, i < 40 ∧ bits.getLsbD (39 - i) = true) :
    lo1 ≤ greatestWidth pw.toList ∧ greatestWidth pw.toList ≤ hi1 := by
  obtain ⟨i, hi, hbit⟩ := hone
  have hle := le_greatestWidth (getElem_mem_widthFile pw hi)
  have hband := h.of_one hi hbit
  have hgreatest := h.of_mem (greatestWidth_mem (widthFile_ne_nil pw))
  omega

/-- A threshold whose two ends lie in the two bands, each narrower than the gap, separates them: twice a width of the lower band
is at most `lo0 + lo1`, and twice one of the upper band is above `hi0 + hi1`. -/
theorem InBands.accumulate_eq (h : InBands pw bits lo0 hi0 lo1 hi1) {wmin wmax : Nat} (hmin : lo0 ≤ wmin ∧ wmin ≤ hi0)
    (hmax : lo1 ≤ wmax ∧ wmax ≤ hi1) (hspread0 : hi0 - lo0 < lo1 - hi0) (hspread1 : hi1 - lo1 < lo1 - hi0) :
    accumulate wmin wmax pw.toList = bits := by
  refine eq_of_captured_bits_eq fun i hi => ?_
  rw [accumulate_getLsbD _ _ _ _ hi, widthBit]
  cases hbit : bits.getLsbD (39 - i) with
  | false =>
    have hw := h.of_zero hi hbit
    exact decide_eq_false (by omega)
  | true =>
    have hw := h.of_one hi hbit
    exact decide_eq_true (by omega)

end Bands

/-! ## The obligations on the decoder -/

/-- Settles O26: the two scans find the least and the greatest width (`leastWidth_spec`, `greatestWidth_spec`), and the bit of
width i stands at ACC[39 - i] (`accumulate_getLsbD`). -/
theorem decodeThresholdsEveryWidth : Obligations.DecodeThresholdsEveryWidth := by
  intro s
  have hne := widthFile_ne_nil s.pw
  exact ⟨s.storeDecoded, exec_decode s, leastWidth_mem hne, fun _ => leastWidth_le, greatestWidth_mem hne,
    fun _ => le_greatestWidth, accumulate_getLsbD _ _ s.pw, rfl, rfl⟩

/-- Settles O27: equal widths are the frame of zeros in pulses of two widths, of which no pulse has the longer
(`accumulate_of_two_widths`); that frame's checksum is right, so VALIDATE accepts it. -/
theorem equalWidthsDecodeToTheZeroFrame : Obligations.EqualWidthsDecodeToTheZeroFrame := by
  intro s w hw
  have hentry : ∀ i (hi : i < 40), s.pw[i] = w := fun i hi =>
    List.eq_of_mem_replicate (hw ▸ getElem_mem_widthFile s.pw hi)
  have hacc : s.storeDecoded.acc = 0 :=
    accumulate_of_two_widths (Nat.lt_succ_self w) (fun i hi => by simpa using hentry i hi) ⟨0, by simp⟩
  have hsum : frameByte s.storeDecoded.acc 4 = frameSum s.storeDecoded.acc := by rw [hacc]; rfl
  refine ⟨_, _, exec_decode s, hacc, exec_validate_of_checksum hsum, rfl, ?_, ?_⟩
  · rw [State.succeed_humidity, hacc]
    rfl
  · rw [State.succeed_temperature, hacc]
    rfl

/-- Settles O28: the scale passes through the two scans and out of the comparison (`accumulate_map_mul`). -/
theorem decodeIgnoresThePollRate : Obligations.DecodeIgnoresThePollRate := by
  intro s k pw hk hpw
  have hne := widthFile_ne_nil s.pw
  refine ⟨_, _, exec_decode s, exec_decode _, ?_⟩
  rw [State.storeDecoded_acc, State.storeDecoded_acc, hpw, leastWidth_map_mul k hne, greatestWidth_map_mul k hne,
    accumulate_map_mul hk]

/-- Settles O29: as both kinds of bit occur, the least width is of the lower band and the greatest of the upper one, and such a
threshold separates the bands (`InBands.accumulate_eq`). -/
theorem decodeSeparatesTwoClusters : Obligations.DecodeSeparatesTwoClusters := by
  intro s bits lo0 hi0 lo1 hi1 hgap hspread0 hspread1 hone hzero hwidths
  have hbands : InBands s.pw bits lo0 hi0 lo1 hi1 := hwidths
  have hmin := hbands.leastWidth_mem_band hgap (exists_zero_bit hzero)
  have hmax := hbands.greatestWidth_mem_band hgap (exists_one_bit hone)
  exact ⟨_, exec_decode s, hbands.accumulate_eq hmin hmax hspread0 hspread1⟩

end Sys2Proof.Safety

/-! PROOF. The statements of 44_frame_validator: the test of SUM on five bytes (R161), and what VALIDATE writes after it, the
Reading (R162, R163, R174) or the failure of the attempt (R164, R172). -/

namespace Sys2Proof.Safety

open Sys2Proof.Machine

/-! ## VALIDATE as an operation (44_validator R164) -/

/-- VALIDATE on a frame with another fifth byte. -/
theorem exec_validate_of_wrong_checksum {s : State} (h : frameByte s.acc 4 ≠ frameSum s.acc) :
    exec .validate s = .next (s.storeSum.failAttempt .checksumMismatch) := by
  rcases s.storeSum.judgeChecksum_cases with ⟨hright, -⟩ | ⟨-, hjudge⟩
  · exact absurd hright h
  · exact congrArg _ hjudge

/-- The flags of a READ that has succeeded (10_state R35). -/
theorem succeed_flags (temp hum : Tenths) (s : State) :
    (s.succeed temp hum).done = true ∧ (s.succeed temp hum).valid = true ∧ (s.succeed temp hum).busy = false := by
  have hdone : (s.succeed temp hum).done = true := (State.done_iff _).2 (.inl rfl)
  exact ⟨hdone, (State.valid_iff _).2 ⟨hdone, rfl⟩, rfl⟩

/-! ## SUM of five bytes (44_validator R161) -/

section Bytes

variable (b0 b1 b2 b3 b4 : BitVec 8)

theorem toNat_add_four_bytes :
    (b0 + b1 + b2 + b3).toNat = (b0.toNat + b1.toNat + b2.toNat + b3.toNat) % 256 := by
  simp only [BitVec.toNat_add]
  omega

/-- SUM is the 8-bit sum of the first four bytes. -/
theorem frameSum_append_eq_add : frameSum (b0 ++ b1 ++ b2 ++ b3 ++ b4) = b0 + b1 + b2 + b3 := by
  refine BitVec.eq_of_toNat_eq ?_
  rw [frameSum_append, BitVec.toNat_ofNat, toNat_add_four_bytes]

/-- The fifth byte passes the test of VALIDATE when it is the 8-bit sum. -/
theorem frameByte_four_eq_frameSum_iff_eq_add :
    frameByte (b0 ++ b1 ++ b2 ++ b3 ++ b4) 4 = frameSum (b0 ++ b1 ++ b2 ++ b3 ++ b4) ↔ b4 = b0 + b1 + b2 + b3 := by
  rw [frameByte_four_eq_frameSum_iff, ← toNat_add_four_bytes, BitVec.toNat_inj]

end Bytes

/-! ## The obligations on the validator -/

/-- Settles O30: the test passes, so VALIDATE succeeds (`exec_validate_of_checksum`), with SUM the fifth byte and the two values
of `toInt_humidity` and `toInt_temperature`. -/
theorem validateAcceptsAndDerives : Obligations.ValidateAcceptsAndDerives := by
  intro b0 b1 b2 b3 b4 s hacc hcheck
  have hright : frameByte s.acc 4 = frameSum s.acc := by
    rw [hacc]
    exact (frameByte_four_eq_frameSum_iff b0 b1 b2 b3 b4).2 hcheck
  have hsum : frameSum s.acc = b4 := by
    obtain ⟨-, -, -, -, hfifth⟩ := frameByte_append b0 b1 b2 b3 b4
    rw [← hright, hacc, hfifth]
  obtain ⟨hdone, hvalid, hbusy⟩ :=
    succeed_flags (toTenths (temperatureTenths s.acc)) (toTenths (humidityTenths s.acc)) s.storeSum
  refine ⟨_, exec_validate_of_checksum hright, hsum, ?_, ?_, hdone, hvalid, hbusy, ?_⟩
  · rw [State.succeed_humidity, hacc]
    exact toInt_humidity b0 b1 b2 b3 b4
  · rw [State.succeed_temperature, hacc]
    exact toInt_temperature b0 b1 b2 b3 b4
  · rw [← hsum]
    rfl

/-- Settles O31: the test fails, so VALIDATE fails the attempt (`exec_validate_of_wrong_checksum`) after it has stored SUM. -/
theorem validateRejectsOtherChecksums : Obligations.ValidateRejectsOtherChecksums := by
  intro b0 b1 b2 b3 b4 s hacc hcheck
  have hwrong : frameByte s.acc 4 ≠ frameSum s.acc := by
    rw [hacc]
    exact mt (frameByte_four_eq_frameSum_iff b0 b1 b2 b3 b4).1 hcheck
  rw [exec_validate_of_wrong_checksum hwrong, ← frameSum_append_eq_add b0 b1 b2 b3 b4, ← hacc]
  rfl

/-- Settles O32: the accepted byte is the 8-bit sum of the four, whatever the fifth is (`frameSum_append_eq_add`); any other
fifth byte leaves RSTATE, which was not Succeeded. -/
theorem exactlyOneChecksumIsAccepted : Obligations.ExactlyOneChecksumIsAccepted := by
  intro b0 b1 b2 b3 s hunfinished
  refine ⟨b0 + b1 + b2 + b3, toNat_add_four_bytes b0 b1 b2 b3, fun b4 => ?_⟩
  have hsum := frameSum_append_eq_add b0 b1 b2 b3 b4
  have htest := frameByte_four_eq_frameSum_iff_eq_add b0 b1 b2 b3 b4
  by_cases hgood : b4 = b0 + b1 + b2 + b3
  · exact ⟨_, exec_validate_of_checksum (htest.2 hgood), hsum, iff_of_true rfl hgood⟩
  · exact ⟨_, exec_validate_of_wrong_checksum (mt htest.1 hgood), hsum, iff_of_false hunfinished hgood⟩

end Sys2Proof.Safety

/-! PROOF. The statements of 45_retry_controller: READ (R176, R181 to R183), the failure of an attempt (R171, R172), BACKOFF
(R173, R175), the writes of the Reading (R171, R174 to R176), and a READ whose first capture is good (R184, R185). -/

namespace Sys2Proof.Machine

/-! ## Which operation a step performs (45_retry R176, 40_gpio R110, 10_state R41) -/

/-- Where the outside does nothing, the step is CTRL's and the PORT's, at the state less the event taken, which is nothing that
they look at (log 4). -/
theorem step_of_idle_outside {s t : State}
    (h : s.env = [] ∧ t = s ∨ ∃ rest, s.env = .pass :: rest ∧ t = { s with env := rest }) :
    step s = (ctrlFetch t).perform ∧ t.outstanding = s.outstanding ∧ t.rstate = s.rstate ∧ t.phase = s.phase := by
  rcases h with ⟨henv, rfl⟩ | ⟨rest, henv, rfl⟩
  · exact ⟨step_nil henv, rfl, rfl, rfl⟩
  · exact ⟨step_cons henv, rfl, rfl, rfl⟩

/-- A host write of CMD runs the operation its code names (10_state R41). -/
theorem hostWriteRegister_runs {data : HostWord} {i : Instr} (s : State)
    (h : Sys2Proof.decode (.hcmd (commandCode data)) = .ok i) : hostWriteRegister 0 data s = .run i s := by
  simp [hostWriteRegister, h]

/-! ## READ (45_retry R176, R183) -/

theorem sentinelTenths_eq : sentinelTenths = -10 := by decide

/-- READ while BUSY = 0. -/
theorem exec_read {s : State} (hr : s.rstate ≠ .attempting) : exec .read s = .next s.beginRead :=
  (execRead_eq_next_iff s _).2 ⟨hr, rfl⟩

/-- The registers that READ writes with attempts to make (45_retry R176). -/
theorem State.beginRead_of_tries {s : State} (hm : s.maxTries ≠ 0) :
    s.beginRead = { s with
      tries := 0, status := .timeoutError, temperature := -10, humidity := -10,
      rstate := .attempting, phase := .acqRequest, stepNo := 0 } := by
  rw [← sentinelTenths_eq]
  exact if_neg hm

/-- The registers that READ writes with MAX_TRIES = 0 (45_retry R183). -/
theorem State.beginRead_of_no_tries {s : State} (hm : s.maxTries = 0) :
    s.beginRead = { s with
      tries := 0, status := .timeoutError, temperature := -10, humidity := -10, rstate := .failed } := by
  rw [← sentinelTenths_eq]
  exact if_pos hm

/-! ## BACKOFF (45_retry R173, R175) -/

/-- The delay's word, by its three fields (30_encoding R91). -/
theorem sleepWord_minInterval (pin : Pin) (interval : BitVec 32) :
    sleepWord pin interval.toNat = 0x05#8 ++ pin ++ interval := by
  rw [sleepWord, BitVec.ofNat_toNat, BitVec.setWidth_eq]
  rfl

theorem State.afterCommand_backoff {s : State} (hp : s.phase = .backoff) : s.afterCommand = s.endBackoff := by
  rw [State.afterCommand, hp]

/-- The registers that the end of BACKOFF writes. -/
theorem State.endBackoff_eq (s : State) :
    s.endBackoff =
      if s.tries = s.maxTries then { s with rstate := .failed, status := .timeoutError, phase := .idle }
      else { s with phase := .acqRequest, stepNo := 0 } := rfl

/-! ## What the shared operations leave of the Reading (45_retry R171) -/

@[simp] theorem State.afterCommand_temperature (s : State) : s.afterCommand.temperature = s.temperature := by
  rw [State.afterCommand_frame]

@[simp] theorem State.afterCommand_humidity (s : State) : s.afterCommand.humidity = s.humidity := by
  rw [State.afterCommand_frame]

@[simp] theorem State.detectChange_temperature (c : Level) (s : State) :
    (s.detectChange c).temperature = s.temperature := by
  rw [State.detectChange_frame]

@[simp] theorem State.detectChange_humidity (c : Level) (s : State) : (s.detectChange c).humidity = s.humidity := by
  rw [State.detectChange_frame]

@[simp] theorem acqPollAt_temperature (s : State) : (acqPollAt Config.traceDepth s).temperature = s.temperature := by
  rcases acqPollAt_outcomes s with ⟨-, -, h⟩ | ⟨-, -, h⟩ | ⟨-, h⟩ <;> simp [h]

@[simp] theorem acqPollAt_humidity (s : State) : (acqPollAt Config.traceDepth s).humidity = s.humidity := by
  rcases acqPollAt_outcomes s with ⟨-, -, h⟩ | ⟨-, -, h⟩ | ⟨-, h⟩ <;> simp [h]

@[simp] theorem State.judgeLength_temperature (s : State) : s.judgeLength.temperature = s.temperature := by
  rcases s.judgeLength_cases with ⟨-, h⟩ | ⟨-, h⟩ <;> simp [h]

@[simp] theorem State.judgeLength_humidity (s : State) : s.judgeLength.humidity = s.humidity := by
  rcases s.judgeLength_cases with ⟨-, h⟩ | ⟨-, h⟩ <;> simp [h]

/-- After a completed command STATUS is written only where BACKOFF ends exhausted (45_retry R173, R175). -/
theorem State.afterCommand_writes_status (s : State) :
    s.afterCommand.status = s.status ∨
    (s.phase = .backoff ∧ s.tries = s.maxTries ∧ s.afterCommand.status = .timeoutError ∧
      s.afterCommand.rstate = .failed) := by
  rcases s.afterCommand_outcomes with ⟨-, -, h⟩ | ⟨-, -, h⟩ | ⟨hp, hn, h⟩ | ⟨-, -, h⟩ | ⟨-, -, h⟩
  · exact .inl (by simp [h])
  · exact .inl (by simp [h])
  · exact .inr ⟨hp, hn, by simp [h], by simp [h]⟩
  · exact .inl (by simp [h])
  · exact .inl (by simp [h])

/-- The judgement of the checksum leaves the Reading, or succeeds (45_retry R171, R174). -/
theorem State.judgeChecksum_writes_reading (s : State) :
    (s.judgeChecksum.temperature = s.temperature ∧ s.judgeChecksum.humidity = s.humidity ∧
      s.judgeChecksum.status = s.status) ∨
    (s.judgeChecksum.status = .ok ∧ s.judgeChecksum.rstate = .succeeded) := by
  rcases s.judgeChecksum_cases with ⟨-, h⟩ | ⟨-, h⟩ <;> simp [h]

/-! ## The LINE moves only when a PIN_READ completes (00_scope R13, 40_gpio R114) -/

@[simp] theorem acqPollAt_line (s : State) : (acqPollAt Config.traceDepth s).line = s.line := by
  rcases acqPollAt_outcomes s with ⟨-, -, h⟩ | ⟨-, -, h⟩ | ⟨-, h⟩ <;> simp [h]

@[simp] theorem State.judgeLength_line (s : State) : s.judgeLength.line = s.line := by
  rcases s.judgeLength_cases with ⟨-, h⟩ | ⟨-, h⟩ <;> simp [h]

@[simp] theorem State.judgeChecksum_line (s : State) : s.judgeChecksum.line = s.line := by
  rcases s.judgeChecksum_cases with ⟨-, h⟩ | ⟨-, h⟩ <;> simp [h]

@[simp] theorem State.beginRead_line (s : State) : s.beginRead.line = s.line := by
  rcases s.beginRead_cases with ⟨-, h⟩ | ⟨-, h⟩ <;> simp [h]

/-- READ and the phases poll nothing. -/
theorem exec_line_of_not_gcmd {i : Instr} {s t : State} (hi : ∀ w, encode i ≠ .gcmd w) (h : exec i s = .next t) :
    t.line = s.line := by
  rcases exec_cases i s t h with
    ⟨-, -, rfl⟩ | ⟨w, hw, -⟩ | ⟨p, rfl, -⟩ | ⟨p, rfl, -⟩ | ⟨-, rfl⟩ | ⟨-, rfl⟩ | ⟨-, ls, -, rfl⟩ | ⟨-, rfl⟩ |
    ⟨-, rfl⟩ | ⟨-, rfl⟩
  · simp
  · exact absurd hw (hi w)
  · exact absurd rfl (hi (pinReadWord p))
  · exact absurd rfl (hi (pinReadWord p))
  all_goals simp

/-- From s to t the LINE has stood still together with the PORT's history, or that history has grown. -/
def LineStandsWithLog (s t : State) : Prop :=
  (t.portLog = s.portLog ∧ t.line = s.line) ∨ s.portLog.length < t.portLog.length

theorem LineStandsWithLog.trans {s t u : State} (h : LineStandsWithLog s t) (h' : LineStandsWithLog t u) :
    LineStandsWithLog s u := by
  rcases h with ⟨hlog, hline⟩ | hlt
  · rwa [LineStandsWithLog, ← hlog, ← hline]
  · rcases h' with ⟨hlog, -⟩ | hlt'
    · exact .inr (hlog ▸ hlt)
    · exact .inr (hlt.trans hlt')

theorem exec_lineStandsWithLog {i : Instr} {s t : State} (h : exec i s = .next t) : LineStandsWithLog s t := by
  by_cases hi : ∃ w, encode i = .gcmd w
  · obtain ⟨w, hw⟩ := hi
    exact .inr (by simp [(exec_gcmd_completes hw h).1])
  · have hno : ∀ w, encode i ≠ .gcmd w := fun w hw => hi ⟨w, hw⟩
    exact .inl ⟨exec_portLog_of_not_gcmd hno h, exec_line_of_not_gcmd hno h⟩

/-- A reset leaves the LINE, and the PORT's history grows by a dropped command at most (70_reset R220, R224). -/
theorem applyReset_lineStandsWithLog (s : State) : LineStandsWithLog s s.applyReset := by
  cases ho : s.outstanding with
  | none => exact .inl ⟨by simp [State.applyReset, State.logAfterReset, ho], rfl⟩
  | some w => exact .inr (by simp [State.applyReset, State.logAfterReset, ho])

theorem step_lineStandsWithLog {s t : State} (h : step s = .next t) : LineStandsWithLog s t := by
  obtain ⟨u, hu, hstep⟩ := step_outcomes s t h
  have hsu : LineStandsWithLog s u := by rcases hu with rfl | ⟨rest, rfl⟩ <;> exact .inl ⟨rfl, rfl⟩
  refine hsu.trans ?_
  rcases hstep with ⟨i, hi⟩ | ⟨reg, rfl⟩ | ⟨d, rfl⟩ | ⟨d, rfl⟩ | ⟨d, rfl⟩ | ⟨d, rfl⟩ | rfl | rfl
  · exact exec_lineStandsWithLog hi
  · exact .inl ⟨rfl, rfl⟩
  · exact .inl ⟨rfl, rfl⟩
  · exact .inl ⟨rfl, rfl⟩
  · exact .inl ⟨rfl, rfl⟩
  · exact .inl ⟨rfl, rfl⟩
  · exact applyReset_lineStandsWithLog u
  · exact .inl ⟨rfl, rfl⟩

/-! ## The failure of an attempt (45_retry R171, R172; 60_exceptions R196) -/

/-- The failure class of each operation that can fail an attempt (60_exceptions R190). -/
def failureClass (i : Instr) : Attempt :=
  if i = .acqPoll then .acquisitionTimeout else if i = .extract then .invalidFrameLength else .checksumMismatch

/-- An operation of an attempt that ends in BACKOFF has failed the attempt with its class, after the writes of EXTRACT's scan
or of SUM. -/
theorem exec_fails_attempt {i : Instr} {s t : State} (hi : i = .acqPoll ∨ i = .extract ∨ i = .validate)
    (hp : s.phase ≠ .backoff) (h : exec i s = .next t) (ht : t.phase = .backoff) :
    ∃ u, t = u.failAttempt (failureClass i) ∧ (u = s ∨ (∃ r, u = s.storeScan r) ∨ u = s.storeSum) := by
  rcases hi with rfl | rfl | rfl
  · have h : t = acqPollAt Config.traceDepth s := by cases h; rfl
    rcases acqPollAt_outcomes s with ⟨-, -, hpoll⟩ | ⟨-, -, hpoll⟩ | ⟨-, hpoll⟩ <;> rw [hpoll] at h
    · exact ⟨s, h, .inl rfl⟩
    · exact absurd ht (by simp [h, hp])
    · exact absurd ht (by simp [h, hp])
  · obtain ⟨ls, -, h⟩ := (execExtract_eq_next_iff s t).1 h
    rcases (s.storeScan (Scan.trace s.pw ls)).judgeLength_cases with ⟨-, hjudge⟩ | ⟨-, hjudge⟩ <;> rw [hjudge] at h
    · exact absurd ht (by simp [h])
    · exact ⟨_, h, .inr (.inl ⟨_, rfl⟩)⟩
  · have h : t = s.storeSum.judgeChecksum := by cases h; rfl
    rcases s.storeSum.judgeChecksum_cases with ⟨-, hjudge⟩ | ⟨-, hjudge⟩ <;> rw [hjudge] at h
    · exact absurd ht (by simp [h])
    · exact ⟨_, h, .inr (.inr rfl)⟩

end Sys2Proof.Machine

namespace Sys2Proof.Safety

open Sys2Proof.Machine

/-! ## A READ from the HOST's write to the Reading (45_retry R176, R177, R184, R185) -/

theorem runFor_lineStandsWithLog {n : Nat} {s t : State} (h : runFor n s = .next t) : LineStandsWithLog s t := by
  induction n generalizing s with
  | zero => cases h; exact .inl ⟨rfl, rfl⟩
  | succ n ih =>
    rw [runFor] at h
    cases hs : step s with
    | next u => rw [hs] at h; exact (step_lineStandsWithLog hs).trans (ih h)
    | fault f => rw [hs] at h; cases h
    | refused r => rw [hs] at h; cases h

/-- A run in which the PORT completes no command leaves the LINE. -/
theorem line_eq_of_runFor {n : Nat} {s t : State} (h : runFor n s = .next t) (hlog : t.portLog = s.portLog) :
    t.line = s.line := by
  rcases runFor_lineStandsWithLog h with ⟨-, hline⟩ | hlt
  · exact hline
  · exact absurd hlt (by simp [hlog])

/-- The HOST's write of READ, as a step. -/
theorem step_readCommand {s : State} {data : HostWord} {rest : List EnvEvent} (hr : s.rstate ≠ .attempting)
    (henv : s.env = .hostWrite 0 data :: rest) (hcode : commandCode data = 0x01) :
    step s = .next (State.beginRead { s with env := rest }) :=
  (step_cons henv).trans ((hostWriteRegister_commands (s := { s with env := rest }) data hr).trans (if_pos hcode))

/-- s at the entry of the first capture of a READ: the sentinel Reading, no try, and the handshake completed. -/
def atFirstCapture (s : State) : State :=
  { s with
    env := [], tries := 0, status := .timeoutError, temperature := -10, humidity := -10, rstate := .attempting,
    phase := .acqPoll, stepNo := 0, portLog := handshake s.pin ++ s.portLog }

/-- READ and the handshake (45_retry R176, 41_sampler R121). -/
theorem runFor_read_handshake {s : State} {data : HostWord} (hr : s.rstate ≠ .attempting) (hm : s.maxTries ≠ 0)
    (ho : s.outstanding = none) (henv : s.env = [.hostWrite 0 data]) (hcode : commandCode data = 0x01) :
    runFor (1 + 14) s = .next (atFirstCapture s) := by
  have hread := step_readCommand hr henv hcode
  rw [State.beginRead_of_tries (s := { s with env := [] }) hm] at hread
  rw [runFor_add (runFor_one hread)]
  exact handshakeRunSendsSevenCommands _ rfl ho rfl rfl rfl

/-- A complete capture is settled in none of its samples but the last (41_sampler R125). -/
theorem CompleteCapture.take_unsettled {levels : List Level} (h : CompleteCapture levels) {m : Nat}
    (hm : m < levels.length) (k : Nat) (hk : k ≤ (levels.take m).length) : ¬ Settled ((levels.take m).take k) := by
  have hkm : k ≤ m := hk.trans (List.length_take_le m levels)
  rw [List.take_take, Nat.min_eq_left hkm]
  exact h.2 k (by omega)

/-- STATE after a READ whose first attempt succeeds (10_state R46, 45_retry R184). -/
theorem stateRegister_of_first_success {t : State} (hr : t.rstate = .succeeded) (hs : t.status = .ok) (hn : t.tries = 0) :
    t.stateRegister = 0x0000001A := by
  apply BitVec.eq_of_toNat_eq
  simp [State.stateRegister_toNat, State.busy, State.done, State.valid, State.raised, RState.code, beq_eq_decide, hr, hs, hn]

/-! ## The obligations on the RetryController -/

/-- Settles O33: what such an operation writes before the failure (`exec_fails_attempt`) and the failure itself leave all that
the HOST and the PORT see. -/
theorem attemptFailureTouchesOnlyTries : Obligations.AttemptFailureTouchesOnlyTries := by
  intro i s t hi hp h ht
  obtain ⟨u, rfl, hu⟩ := exec_fails_attempt hi hp h ht
  refine ⟨rfl, ?_⟩
  rcases hu with rfl | ⟨r, rfl⟩ | rfl <;> simp

/-- Settles O34: the word by its fields (`sleepWord_minInterval`). -/
theorem backoffIssuesTheDelay : Obligations.BackoffIssuesTheDelay := by
  intro s
  exact congrArg (fun w => (.next (s.issue w) : Result)) (sleepWord_minInterval s.pin s.minInterval)

/-- Settles O15: the command completes, and the end of BACKOFF follows (`State.endBackoff_eq`). -/
theorem sleepEndsBackoff : Obligations.SleepEndsBackoff := by
  intro pin d s hp
  have hafter : (s.completePort (sleepWord pin d)).afterCommand = (s.completePort (sleepWord pin d)).endBackoff :=
    State.afterCommand_backoff hp
  rw [exec_portCommand (.sleep pin d) (sleepWord pin d) s rfl nofun, hafter, State.endBackoff_eq]
  rfl

/-- Settles O35: the delay is issued, and its completion ends BACKOFF (`ctrlFetch_delay`). -/
theorem backoffRunSleepsThenRetriesOrEnds : Obligations.BackoffRunSleepsThenRetriesOrEnds := by
  intro s he ho hr hp
  have hissue := CtrlStep.step_eq he (.delayIssued ho hr hp)
  have hcomplete := (step_nil (s := s.issue (sleepWord s.pin s.minInterval.toNat)) he).trans (ctrlFetch_delay rfl hp)
  rw [runFor_two hissue hcomplete, State.endBackoff_eq]
  simp [State.completePort, State.issue, sleepWord_minInterval, ho]

/-- Settles O38, by what the operation does: STATUS alone can change where a command completes
(`State.afterCommand_writes_status`), the whole Reading in VALIDATE (`State.judgeChecksum_writes_reading`), and no other
operation but READ writes it. -/
theorem readingWrittenOnlyAtTheEnds : Obligations.ReadingWrittenOnlyAtTheEnds := by
  intro i s t h hread
  rcases exec_cases i s t h with
    ⟨rfl, -, -⟩ | ⟨w, -, -, rfl⟩ | ⟨p, -, -, rfl⟩ | ⟨p, -, -, -, rfl⟩ | ⟨-, rfl⟩ | ⟨-, rfl⟩ | ⟨-, ls, -, rfl⟩ | ⟨-, rfl⟩ |
    ⟨rfl, rfl⟩ | ⟨-, rfl⟩
  · exact absurd rfl hread
  · refine ⟨.inl (by simp), ?_⟩
    rcases (s.completePort w).afterCommand_writes_status with hsame | hend
    · exact .inl hsame
    · exact .inr (.inr hend)
  · refine ⟨.inl (by simp), ?_⟩
    rcases (s.completePort (pinReadWord p)).advanceLine.afterCommand_writes_status with hsame | hend
    · exact .inl (by simpa using hsame)
    · exact .inr (.inr (by simpa using hend))
  · exact ⟨.inl (by simp), .inl (by simp)⟩
  · exact ⟨.inl (by simp), .inl (by simp)⟩
  · exact ⟨.inl (by simp), .inl (by simp)⟩
  · exact ⟨.inl (by simp), .inl (by simp)⟩
  · exact ⟨.inl (by simp), .inl (by simp)⟩
  · rcases s.storeSum.judgeChecksum_writes_reading with ⟨htemp, hhum, hsame⟩ | ⟨hok, hsucc⟩
    · exact ⟨.inl ⟨htemp, hhum⟩, .inl hsame⟩
    · exact ⟨.inr ⟨rfl, hsucc⟩, .inr (.inl ⟨rfl, hok, hsucc⟩)⟩
  · exact ⟨.inl (by simp), .inl (by simp)⟩

/-- Settles O43: after READ and the handshake (`runFor_read_handshake`) the capture either fits TRACE_DEPTH, and the run of O21
and that of O42 follow, or its first TRACE_DEPTH samples are settled nowhere, and the run of O22 follows. -/
theorem readOfAGoodFirstCapture : Obligations.ReadOfAGoodFirstCapture := by
  intro s b0 b1 b2 b3 b4 lead low high gap short long between tail n levels rest data hlt hcheck hlevels hcomplete hr hm hc
    ho hcode henv hline
  have hstart := runFor_read_handshake hr hm ho henv hcode
  by_cases hfit : levels.length ≤ Config.traceDepth
  · rw [if_pos hfit]
    obtain ⟨u, hcapture, hphase, -, hread, -, hlog, hu⟩ :=
      captureRunRecordsTheLine (atFirstCapture s) levels rest rfl ho rfl rfl hc hline hcomplete hfit
    have henv_u : u.env = [] := by rw [hu]; rfl
    have ho_u : u.outstanding = none := by rw [hu]; exact ho
    have hr_u : u.rstate = .attempting := by rw [hu]; rfl
    have htries_u : u.tries = 0 := by rw [hu]; rfl
    have hline_u : u.line = rest := by rw [hu]
    rw [hlevels] at hread
    obtain ⟨t, hframe, hsucc, -, hok, -, htries, hlog_t, hhum, htemp⟩ :=
      goodFrameRunSucceeds u b0 b1 b2 b3 b4 lead low high gap short long between tail n hlt hcheck henv_u ho_u hr_u hphase
        hread
    have htries_t : t.tries = 0 := htries.trans htries_u
    refine ⟨t, ?_, hsucc, hok, htries_t, stateRegister_of_first_success hsucc hok htries_t,
      (line_eq_of_runFor hframe hlog_t).trans hline_u, ?_, hhum, htemp⟩
    · rw [Nat.add_assoc (1 + 14), runFor_add hstart, runFor_add hcapture, hframe]
    · rw [hlog_t, hlog, List.append_assoc]
      rfl
  · rw [if_neg hfit]
    have hlong : Config.traceDepth < levels.length := Nat.lt_of_not_le hfit
    have hfull : (levels.take Config.traceDepth).length = Config.traceDepth := List.length_take_of_le hlong.le
    have hsplit : s.line = levels.take Config.traceDepth ++ (levels.drop Config.traceDepth ++ rest) := by
      rw [← List.append_assoc, List.take_append_drop, hline]
    obtain ⟨t, htimeout, hphase, hatt, htries, -, hline_t, hlog, hr_t, -⟩ :=
      captureRunTimesOutOnARestlessLine (atFirstCapture s) _ _ rfl ho rfl rfl hc hsplit hfull (hcomplete.take_unsettled hlong)
    rw [hfull] at htimeout hlog
    refine ⟨t, ?_, hr_t, hphase, hatt, htries, hline_t, ?_⟩
    · rw [Nat.add_assoc (1 + 14), runFor_add hstart, htimeout]
    · rw [hlog, List.append_assoc]
      rfl

/-- Settles O5: the outstanding word or PHASE names what CTRL and the PORT do (`ctrlFetch_outstanding`, `ctrlFetch_phase`), and
the code what a write of CMD does (`hostWriteRegister_runs`). -/
theorem stepRunsTheNamedOperation : Obligations.StepRunsTheNamedOperation := by
  refine ⟨fun s t w i hidle hout hi => ?_, fun s t i hidle hout hr hi => ?_, fun s d rest i henv hi => ?_⟩
  · obtain ⟨hstep, ho, -⟩ := step_of_idle_outside hidle
    exact hstep.trans (ctrlFetch_outstanding (ho.trans hout) hi)
  · obtain ⟨hstep, ho, hrs, hp⟩ := step_of_idle_outside hidle
    exact hstep.trans (ctrlFetch_phase (ho.trans hout) (hrs.trans hr) (hp ▸ hi))
  · exact (step_cons henv).trans (congrArg Fetched.perform (hostWriteRegister_runs _ hi))

/-- Settles O10, by the registers that READ writes (`State.beginRead_of_tries`). -/
theorem readStartsAnAttempt : Obligations.ReadStartsAnAttempt := fun _ hr hm =>
  (exec_read hr).trans (congrArg _ (State.beginRead_of_tries hm))

/-- Settles O11, by the registers that READ writes (`State.beginRead_of_no_tries`). -/
theorem readWithNoTriesFails : Obligations.ReadWithNoTriesFails := fun _ hr hm =>
  (exec_read hr).trans (congrArg _ (State.beginRead_of_no_tries hm))

/-- Settles O12: READ looks at BUSY first. -/
theorem readWhileBusyRefused : Obligations.ReadWhileBusyRefused := fun s hr => if_pos (s.busy_iff.2 hr)

/-- Settles O47: VALID is DONE with status Ok, and in a sound state status Ok is RSTATE Succeeded, where DONE is 1. -/
theorem validMeansSucceeded : Obligations.ValidMeansSucceeded := by
  intro s hs
  obtain ⟨-, -, -, hbit, -⟩ := stateRegisterFields s
  refine ⟨hbit, s.valid_iff, ?_⟩
  rw [s.valid_iff, hs.result.ok_iff]
  exact ⟨fun h => h.2, fun h => ⟨s.done_iff.2 (.inl h), h⟩⟩

end Sys2Proof.Safety

/-! PROOF. The statements of 70_reset_and_hazards: the block at rest (R220) and a reset event (R222, R224). -/

namespace Sys2Proof.Machine

/-! ## The PORT's history after a reset (70_reset R220, R224; log 13) -/

theorem State.logAfterReset_of_outstanding {s : State} {w : PortWord} (h : s.outstanding = some w) :
    s.logAfterReset = .dropped w :: s.portLog := by
  simp [State.logAfterReset, h]

theorem State.logAfterReset_of_none {s : State} (h : s.outstanding = none) : s.logAfterReset = s.portLog := by
  simp [State.logAfterReset, h]

/-! ## The step of a reset event -/

theorem step_reset {s : State} {rest : List EnvEvent} (h : s.env = .reset :: rest) :
    step s = .next { State.reset with
      env := rest, line := s.line, lineIdx := s.lineIdx, portLog := s.logAfterReset } :=
  step_cons h

end Sys2Proof.Machine

namespace Sys2Proof.Safety

open Sys2Proof.Machine

/-- Settles O6: with no event of the outside the step is CTRL's and the PORT's (`step_nil`), and these wait (`ctrlFetch_waits`). -/
theorem blockWaitsInIdle : Obligations.BlockWaitsInIdle := fun _ henv ho hr =>
  (step_nil henv).trans (ctrlFetch_waits ho hr)

/-- Settles O9, by the step of a reset event (`step_reset`) and whether it finds a command outstanding, which is then dropped. -/
theorem resetEventClearsTheBlock : Obligations.ResetEventClearsTheBlock := by
  intro s rest henv
  rw [step_reset henv]
  cases ho : s.outstanding with
  | none => rw [State.logAfterReset_of_none ho]; rfl
  | some w => rw [State.logAfterReset_of_outstanding ho]; rfl

end Sys2Proof.Safety
